-- ==== Sys2Proof/Word.lean ====
section
/-! DEFINITION. The engine's plain word types: a value of width N is a natural number below 2^N (00_scope.md R6). -/

namespace Sys2Proof

/-- One byte of a buffer, an address or a wire format. -/
abbrev Byte := BitVec 8

/-- A 16-bit value: a port, a halfword of an address, a checksum. -/
abbrev Half := BitVec 16

/-- A 32-bit value: a command word (R60), the data of a response (R70). -/
abbrev Word := BitVec 32

end Sys2Proof
end

