-- ==== Sys2Proof/Syntax.lean ====
section
/-! DEFINITION. The 24 commands of the engine, one constructor per row of spec/opcode_table.json (30_encoding.md R62), with the operands of R61 and R63. -/

namespace Sys2Proof

/-- Field `r`: which address register, and its AF tag (R63). -/
inductive AddrReg where
  | src | dst
deriving DecidableEq, Repr

/-- Field `b`: which buffer (R63). -/
inductive Buf where
  | rx | tx
deriving DecidableEq, Repr

/-- Field `p`: the transport protocol (R63). -/
inductive Proto where
  | tcp | udp
deriving DecidableEq, Repr

/-- Field `ch`: the listening socket a datagram came from (R63, R155). -/
inductive Channel where
  | tcp4 | tcp6 | icmp4 | icmp6
deriving DecidableEq, Repr

/-- One command. Operands whose every code has a meaning of its own are constructors; `af`, `sel` and `v` keep their codes,
because some codes are refused by the command and not by the decoder (R65); offsets and lengths are numbers, whose widths
`Instr.wf` checks. -/
inductive Instr where
  | nop
  | setaf (r : AddrReg) (af : BitVec 2)
  | setah (r : AddrReg) (idx : Fin 8) (imm16 : Half)
  | setsp (imm16 : Half)
  | setdp (imm16 : Half)
  | setctl (k : BitVec 2)
  | getr (sel : BitVec 8)
  | clrerr
  | ack
  | stb (b : Buf) (off : Nat) (data : Byte)
  | ldb (b : Buf) (off : Nat)
  | setrxlen (len : Nat)
  | csum (b : Buf) (off : Nat) (len : Nat)
  | bip4 (p : Proto)
  | bip6 (p : Proto)
  | btcp
  | budp
  | build (p : Proto)
  | parse (ch : Channel)
  | classify (ch : Channel)
  | arm (p : Proto) (port : Half)
  | setv (p : Proto) (port : Half) (v : BitVec 3)
  | getv (p : Proto) (port : Half)
  | clrv
deriving DecidableEq, Repr

end Sys2Proof
end

