-- ==== Sys2Proof/WellFormed.lean ====
section
/-! DEFINITION. Which commands have an encoding: every numeric operand fits its field (30_encoding.md R61, R63). -/

namespace Sys2Proof

/-- Field `off` is 11 bits wide (R63). -/
def offFits (off : Nat) : Bool := off < 2048

/-- Field `len` is 12 bits wide (R63). -/
def lenFits (len : Nat) : Bool := len < 4096

/-- A well-formed command: each operand is a value its field can hold. An operand value that the command refuses (`af` = 3, an
unpopulated `sel`, `v` outside 2..4) is well formed: the word decodes and the command raises (R65). -/
def Instr.wf : Instr → Bool
  | .nop => true
  | .setaf _ _ => true
  | .setah _ _ _ => true
  | .setsp _ => true
  | .setdp _ => true
  | .setctl _ => true
  | .getr _ => true
  | .clrerr => true
  | .ack => true
  | .stb _ off _ => offFits off
  | .ldb _ off => offFits off
  | .setrxlen len => lenFits len
  | .csum _ off len => offFits off && lenFits len
  | .bip4 _ => true
  | .bip6 _ => true
  | .btcp => true
  | .budp => true
  | .build _ => true
  | .parse _ => true
  | .classify _ => true
  | .arm _ _ => true
  | .setv _ _ _ => true
  | .getv _ _ => true
  | .clrv => true

end Sys2Proof
end

