-- ==== Sys2Proof/Decode.lean ====
section
/-! DEFINITION. Decoding and encoding of command words (30_encoding.md R60 to R65, R71): the decoder by opcode and reserved
fields, the encoder by the sums of R71, the mask and match table of R62, and the host's reading of a table word. -/

namespace Sys2Proof

/-- `w[hi:lo]`: the field of `w` from bit `hi` down to bit `lo`, as a natural number (00_scope.md R6). -/
def bits (w : Word) (hi lo : Nat) : Nat := w.toNat / 2 ^ lo % 2 ^ (hi + 1 - lo)

/-- Why a word is no command (R65). Both reasons raise ERR_ILLEGAL. -/
inductive Illegal where
  /-- Case (a) of R65: bits 31:24 are none of the 24 opcodes. -/
  | unknownOpcode
  /-- Case (b) of R65: a listed opcode with a reserved bit set. -/
  | reservedBit
deriving DecidableEq, Repr

/-- The codes of field `r` (R63). -/
def AddrReg.ofCode (n : Nat) : AddrReg := if n = 0 then .src else .dst

/-- The codes of field `r` (R63). -/
def AddrReg.code : AddrReg → Nat
  | .src => 0
  | .dst => 1

/-- The codes of field `b` (R63). -/
def Buf.ofCode (n : Nat) : Buf := if n = 0 then .rx else .tx

/-- The codes of field `b` (R63). -/
def Buf.code : Buf → Nat
  | .rx => 0
  | .tx => 1

/-- The codes of field `p` (R63). -/
def Proto.ofCode (n : Nat) : Proto := if n = 0 then .tcp else .udp

/-- The codes of field `p` (R63). -/
def Proto.code : Proto → Nat
  | .tcp => 0
  | .udp => 1

/-- The codes of field `ch` (R63). -/
def Channel.ofCode (n : Nat) : Channel :=
  if n = 0 then .tcp4 else if n = 1 then .tcp6 else if n = 2 then .icmp4 else .icmp6

/-- The codes of field `ch` (R63). -/
def Channel.code : Channel → Nat
  | .tcp4 => 0
  | .tcp6 => 1
  | .icmp4 => 2
  | .icmp6 => 3

/-- The command `i`, if the reserved fields of its format are all zero; `reserved` is their sum (R60: a reserved field must be zero). -/
def ifReservedZero (reserved : Nat) (i : Instr) : Except Illegal Instr :=
  if reserved = 0 then .ok i else .error .reservedBit

/-- The command a word stands for: the opcode selects the format, the bits R61 leaves unnamed must be zero, and every field is
taken as it stands (R60, R61, R64, R65). Total; a word that is no command is rejected with its reason. -/
def decode (w : Word) : Except Illegal Instr :=
  match bits w 31 24 with
  | 0x00 => ifReservedZero (bits w 23 0) .nop
  | 0x01 => ifReservedZero (bits w 22 2) (.setaf (.ofCode (bits w 23 23)) (.ofNat 2 (bits w 1 0)))
  | 0x02 =>
    ifReservedZero (bits w 22 19)
      (.setah (.ofCode (bits w 23 23)) (Fin.ofNat 8 (bits w 18 16)) (.ofNat 16 (bits w 15 0)))
  | 0x03 => ifReservedZero (bits w 23 16) (.setsp (.ofNat 16 (bits w 15 0)))
  | 0x04 => ifReservedZero (bits w 23 16) (.setdp (.ofNat 16 (bits w 15 0)))
  | 0x05 => ifReservedZero (bits w 23 2) (.setctl (.ofNat 2 (bits w 1 0)))
  | 0x06 => ifReservedZero (bits w 23 8) (.getr (.ofNat 8 (bits w 7 0)))
  | 0x07 => ifReservedZero (bits w 23 0) .clrerr
  | 0x08 => ifReservedZero (bits w 23 0) .ack
  | 0x10 =>
    ifReservedZero (bits w 22 19) (.stb (.ofCode (bits w 23 23)) (bits w 18 8) (.ofNat 8 (bits w 7 0)))
  | 0x11 => ifReservedZero (bits w 22 19 + bits w 7 0) (.ldb (.ofCode (bits w 23 23)) (bits w 18 8))
  | 0x12 => ifReservedZero (bits w 23 12) (.setrxlen (bits w 11 0))
  | 0x20 => .ok (.csum (.ofCode (bits w 23 23)) (bits w 22 12) (bits w 11 0))
  | 0x30 => ifReservedZero (bits w 23 1) (.bip4 (.ofCode (bits w 0 0)))
  | 0x31 => ifReservedZero (bits w 23 1) (.bip6 (.ofCode (bits w 0 0)))
  | 0x32 => ifReservedZero (bits w 23 0) .btcp
  | 0x33 => ifReservedZero (bits w 23 0) .budp
  | 0x34 => ifReservedZero (bits w 23 1) (.build (.ofCode (bits w 0 0)))
  | 0x40 => ifReservedZero (bits w 23 2) (.parse (.ofCode (bits w 1 0)))
  | 0x41 => ifReservedZero (bits w 23 2) (.classify (.ofCode (bits w 1 0)))
  | 0x50 => ifReservedZero (bits w 23 17) (.arm (.ofCode (bits w 16 16)) (.ofNat 16 (bits w 15 0)))
  | 0x51 =>
    ifReservedZero (bits w 23 20)
      (.setv (.ofCode (bits w 16 16)) (.ofNat 16 (bits w 15 0)) (.ofNat 3 (bits w 19 17)))
  | 0x52 => ifReservedZero (bits w 23 17) (.getv (.ofCode (bits w 16 16)) (.ofNat 16 (bits w 15 0)))
  | 0x53 => ifReservedZero (bits w 23 0) .clrv
  | _ => .error .unknownOpcode

/-- The number a command's word is, by the sums of R71. -/
def encodeNat : Instr → Nat
  | .nop => 0x00000000
  | .setaf r af => 0x01000000 + r.code * 2 ^ 23 + af.toNat
  | .setah r idx imm16 => 0x02000000 + r.code * 2 ^ 23 + idx.val * 2 ^ 16 + imm16.toNat
  | .setsp imm16 => 0x03000000 + imm16.toNat
  | .setdp imm16 => 0x04000000 + imm16.toNat
  | .setctl k => 0x05000000 + k.toNat
  | .getr sel => 0x06000000 + sel.toNat
  | .clrerr => 0x07000000
  | .ack => 0x08000000
  | .stb b off data => 0x10000000 + b.code * 2 ^ 23 + off * 2 ^ 8 + data.toNat
  | .ldb b off => 0x11000000 + b.code * 2 ^ 23 + off * 2 ^ 8
  | .setrxlen len => 0x12000000 + len
  | .csum b off len => 0x20000000 + b.code * 2 ^ 23 + off * 2 ^ 12 + len
  | .bip4 p => 0x30000000 + p.code
  | .bip6 p => 0x31000000 + p.code
  | .btcp => 0x32000000
  | .budp => 0x33000000
  | .build p => 0x34000000 + p.code
  | .parse ch => 0x40000000 + ch.code
  | .classify ch => 0x41000000 + ch.code
  | .arm p port => 0x50000000 + p.code * 2 ^ 16 + port.toNat
  | .setv p port v => 0x51000000 + v.toNat * 2 ^ 17 + p.code * 2 ^ 16 + port.toNat
  | .getv p port => 0x52000000 + p.code * 2 ^ 16 + port.toNat
  | .clrv => 0x53000000

/-- The command word of a command (R71); for a well-formed command it is the one word that decodes to it. -/
def encode (i : Instr) : Word := .ofNat 32 (encodeNat i)

/-- One row of the opcode map (R62). -/
structure OpcodeRow where
  mnemonic : String
  pattern : Word
  mask : Word
deriving DecidableEq, Repr

/-- A word is the command of a row when `(w AND mask) = match` (R62). -/
def OpcodeRow.covers (r : OpcodeRow) (w : Word) : Bool := w &&& r.mask == r.pattern

/-- The opcode map as the spec prints it (R62). The decoder does not use it: that both say the same is a statement. -/
def opcodeMap : List OpcodeRow :=
  [⟨"NOP", 0x00000000, 0xFFFFFFFF⟩, ⟨"SETAF", 0x01000000, 0xFF7FFFFC⟩, ⟨"SETAH", 0x02000000, 0xFF780000⟩,
   ⟨"SETSP", 0x03000000, 0xFFFF0000⟩, ⟨"SETDP", 0x04000000, 0xFFFF0000⟩, ⟨"SETCTL", 0x05000000, 0xFFFFFFFC⟩,
   ⟨"GETR", 0x06000000, 0xFFFFFF00⟩, ⟨"CLRERR", 0x07000000, 0xFFFFFFFF⟩, ⟨"ACK", 0x08000000, 0xFFFFFFFF⟩] ++
  [⟨"STB", 0x10000000, 0xFF780000⟩, ⟨"LDB", 0x11000000, 0xFF7800FF⟩, ⟨"SETRXLEN", 0x12000000, 0xFFFFF000⟩,
   ⟨"CSUM", 0x20000000, 0xFF000000⟩, ⟨"BIP4", 0x30000000, 0xFFFFFFFE⟩, ⟨"BIP6", 0x31000000, 0xFFFFFFFE⟩,
   ⟨"BTCP", 0x32000000, 0xFFFFFFFF⟩, ⟨"BUDP", 0x33000000, 0xFFFFFFFF⟩, ⟨"BUILD", 0x34000000, 0xFFFFFFFE⟩] ++
  [⟨"PARSE", 0x40000000, 0xFFFFFFFC⟩, ⟨"CLASSIFY", 0x41000000, 0xFFFFFFFC⟩, ⟨"ARM", 0x50000000, 0xFFFE0000⟩,
   ⟨"SETV", 0x51000000, 0xFFF00000⟩, ⟨"GETV", 0x52000000, 0xFFFE0000⟩, ⟨"CLRV", 0x53000000, 0xFFFFFFFF⟩]

/-- The mnemonic of a command, as R62 spells it. -/
def Instr.mnemonic : Instr → String
  | .nop => "NOP"
  | .setaf _ _ => "SETAF"
  | .setah _ _ _ => "SETAH"
  | .setsp _ => "SETSP"
  | .setdp _ => "SETDP"
  | .setctl _ => "SETCTL"
  | .getr _ => "GETR"
  | .clrerr => "CLRERR"
  | .ack => "ACK"
  | .stb _ _ _ => "STB"
  | .ldb _ _ => "LDB"
  | .setrxlen _ => "SETRXLEN"
  | .csum _ _ _ => "CSUM"
  | .bip4 _ => "BIP4"
  | .bip6 _ => "BIP6"
  | .btcp => "BTCP"
  | .budp => "BUDP"
  | .build _ => "BUILD"
  | .parse _ => "PARSE"
  | .classify _ => "CLASSIFY"
  | .arm _ _ => "ARM"
  | .setv _ _ _ => "SETV"
  | .getv _ _ => "GETV"
  | .clrv => "CLRV"

/-- The opcode of a command (R62). -/
def Instr.opcode : Instr → Nat
  | .nop => 0x00
  | .setaf _ _ => 0x01
  | .setah _ _ _ => 0x02
  | .setsp _ => 0x03
  | .setdp _ => 0x04
  | .setctl _ => 0x05
  | .getr _ => 0x06
  | .clrerr => 0x07
  | .ack => 0x08
  | .stb _ _ _ => 0x10
  | .ldb _ _ => 0x11
  | .setrxlen _ => 0x12
  | .csum _ _ _ => 0x20
  | .bip4 _ => 0x30
  | .bip6 _ => 0x31
  | .btcp => 0x32
  | .budp => 0x33
  | .build _ => 0x34
  | .parse _ => 0x40
  | .classify _ => 0x41
  | .arm _ _ => 0x50
  | .setv _ _ _ => 0x51
  | .getv _ _ => 0x52
  | .clrv => 0x53

/-- The command word whose bits the opcode table numbers `w`: one 32-bit word, bit 0 its least significant bit, and every bit at
or above `nbits` zero. The engine stores commands nowhere, so no byte order enters (R14, R50). DEDUCED, safe: log 15. -/
def commandWord (nbits w : Nat) : Word := .ofNat 32 (w % 2 ^ nbits)

/-- The instruction the decoder reads from a table row's word. -/
def decodeTableWord (nbits w : Nat) : Option Instr :=
  match decode (commandWord nbits w) with
  | .ok i => some i
  | .error _ => none

end Sys2Proof
end

