-- ==== Sys2Proof/Config.lean ====
section
/-! DEFINITION. The parameters of the engine (00_scope.md R5): the fixed ones are constants, the one OPEN parameter is an opaque constant. -/

namespace Sys2Proof.Config

/-- `RXCAP`: the capacity of RXBUF in bytes (R5, D7). -/
def rxCap : Nat := 2048

/-- `TXCAP`: the capacity of TXBUF in bytes (R5, D7). -/
def txCap : Nat := 64

/-- The most bytes `csum` takes: the words of a longer sequence could pass what 32 bits hold, and the result is not specified
(R103, U5). -/
abbrev csumMax : Nat := 131072

/-- `IPV4_TTL` (R5). -/
def ipv4Ttl : Byte := 64#8

/-- `IPV6_HOPLIMIT` (R5). -/
def ipv6HopLimit : Byte := 64#8

/-- `TCP_WINDOW` (R5). -/
def tcpWindow : Half := 1024#16

/-- `TCP_FLAGS_OUT`: SYN alone (R5). -/
def tcpFlagsOut : Byte := 0x02#8

/-- `PROTO_TCP` (R5). -/
def protoTcp : Byte := 6#8

/-- `PROTO_UDP` (R5). -/
def protoUdp : Byte := 17#8

/-- `IPV4_ID`, the identification value of every IPv4 header: OPEN in R5 and D12, fixed for an instance, neither state nor
an operand (R10). It has no body, so a claim holds for every value of it. DESIGN CHOICE, safe: log 5. -/
opaque ipv4Id : Half

end Sys2Proof.Config
end

