-- ==== Sys2Proof/Machine/State.lean ====
section
/-! DEFINITION. The engine's state as plain data, its reset value, and the reasons a step can stop (10_state.md R10 to R29). -/

namespace Sys2Proof.Machine

/-- An address family tag (R13). Code 3 is reserved and cannot be stored, so the type leaves it out: log 9. -/
inductive AF where
  | none | v4 | v6
deriving DecidableEq, Repr

/-- A verdict code (R24). Codes 5 to 7 are never stored, so the type leaves them out: log 9. -/
inductive Verdict where
  /-- Code 0: no entry. -/
  | absent
  /-- Code 1: an outstanding PortProbe. -/
  | pending
  /-- Code 2: OPEN, terminal. -/
  | opened
  /-- Code 3: CLOSED, terminal. -/
  | closed
  /-- Code 4: FILTERED, terminal. -/
  | filtered
deriving DecidableEq, Repr

/-- An address register: the 16 bytes `A[0]` to `A[15]` in the order they go on the wire (R13). -/
abbrev Addr := Vector Byte 16

/-- A byte buffer: the bytes that are not 0x00, by rising offset. The spec resets every byte to 0x00 (R27), so an unlisted byte
reads 0x00: log 6. -/
abbrev Memory := List Host.Cell

/-- The verdict table: the entries that are not ABSENT, by rising key `p * 65536 + port`. The spec resets every entry to ABSENT
(R27), so an unlisted entry reads ABSENT: log 7. -/
abbrev VTable := List (Nat × Verdict)

/-- The one canonical form of sparse data over the value `d` of an unlisted key: keys strictly rising, no entry equal to `d`. -/
abbrev Sparse.wf {α : Type} [DecidableEq α] (d : α) (m : List (Nat × α)) : Prop :=
  m.Pairwise (fun a b => a.1 < b.1) ∧ ∀ c ∈ m, c.2 ≠ d

/-- What an unlisted byte of a buffer reads as: the reset contents of R27. -/
def Memory.unlisted : Byte := 0x00#8

/-- A buffer is in its canonical form. -/
abbrev Memory.wf (m : Memory) : Prop := Sparse.wf Memory.unlisted m

/-- The verdict table is in its canonical form. -/
abbrev VTable.wf (m : VTable) : Prop := Sparse.wf Verdict.absent m

/-- The fields of `STATUS` that hold something; bits 3:1 are reserved and read 0 (R16). Log 14. -/
structure Status where
  err : Bool
  errCode : BitVec 4
  evtPend : Bool
deriving DecidableEq, Repr

/-- The seven parse result registers, written together by PARSE and CLASSIFY (R20). -/
structure ParseRegs where
  kind : BitVec 10
  off : BitVec 6
  ports : BitVec 32
  flags : BitVec 8
  icmp : BitVec 16
  eproto : BitVec 8
  eports : BitVec 32
deriving DecidableEq, Repr

/-- The answer to one command (R70). -/
structure Response where
  err : BitVec 4
  data : Word
deriving DecidableEq, Repr

/-- One thing the host does at the engine's inputs: it presents a command word (R9), or it pulses reset (R230). Log 1, log 4. -/
inductive HostEvent where
  | command (w : Word)
  | reset
deriving DecidableEq, Repr

/-- The engine's whole state (R10), and after it the model's own two fields: what the host presents next and the last response.
No command reads those two. -/
structure State where
  /-- `SRC_ADDR` (R13). -/
  srcAddr : Addr
  /-- `DST_ADDR` (R13). -/
  dstAddr : Addr
  /-- `SRC_AF` (R13). -/
  srcAf : AF
  /-- `DST_AF` (R13). -/
  dstAf : AF
  /-- `SRC_PORT` (R11). -/
  srcPort : Half
  /-- `DST_PORT` (R11). -/
  dstPort : Half
  /-- `CTRL` (R15). -/
  ctrl : BitVec 2
  /-- `STATUS` (R16). -/
  status : Status
  /-- `ERRCMD` (R17). -/
  errCmd : Word
  /-- `TX_LEN` (R18). -/
  txLen : BitVec 7
  /-- `RX_LEN` (R18). -/
  rxLen : BitVec 12
  /-- `CS_ACC` (R19). -/
  csAcc : BitVec 32
  /-- `CS_RES` (R19). -/
  csRes : BitVec 16
  /-- `PR_KIND`, `PR_OFF`, `PR_PORTS`, `PR_FLAGS`, `PR_ICMP`, `PR_EPROTO`, `PR_EPORTS` (R20). -/
  pr : ParseRegs
  /-- `RES` (R21). -/
  res : BitVec 24
  /-- `EVT` (R22). -/
  evt : BitVec 24
  /-- `TXBUF` (R25). -/
  txbuf : Memory
  /-- `RXBUF` (R25). -/
  rxbuf : Memory
  /-- `VT` (R23). -/
  vt : VTable
  /-- The model's own: what the host presents next, oldest first. DESIGN CHOICE: log 1. -/
  input : List HostEvent
  /-- The model's own: the response of the last command, none before the first. DESIGN CHOICE: log 3. -/
  resp : Option Response
deriving DecidableEq, Repr

/-- The reasons a step can stop with a fault: there are none. Every command is total (R8): what the spec calls an error is a
response and a record in the state (R207), after which the engine goes on. Nobody raises one, which is what the spec says. -/
inductive Fault where
deriving DecidableEq, Repr

/-- The reasons a step can be refused. -/
inductive Refusal where
  /-- Raised by an arm of `exec` for a command without a meaning. Safe: the machine stops. No arm raises it. -/
  | notModelled (mnemonic : String)
deriving DecidableEq, Repr

/-- The answer of a step of this machine. -/
abbrev Result := Host.Outcome State Fault Refusal

/-- The state after reset: every component at the value of R27; of the model's own fields, nothing presented and nothing
answered (DESIGN CHOICE: log 1, log 3). -/
def State.reset : State where
  srcAddr := Vector.replicate 16 0x00#8
  dstAddr := Vector.replicate 16 0x00#8
  srcAf := .none
  dstAf := .none
  srcPort := 0#16
  dstPort := 0#16
  ctrl := 0#2
  status := { err := false, errCode := 0#4, evtPend := false }
  errCmd := 0#32
  txLen := 0#7
  rxLen := 0#12
  csAcc := 0#32
  csRes := 0#16
  pr := { kind := 0#10, off := 0#6, ports := 0#32, flags := 0#8, icmp := 0#16, eproto := 0#8, eports := 0#32 }
  res := 0#24
  evt := 0#24
  txbuf := []
  rxbuf := []
  vt := []
  input := []
  resp := .none

end Sys2Proof.Machine
end

