-- ==== Sys2Proof/Machine/Flags.lean ====
section
/-! DEFINITION. The status and control bits: STATUS as one word, the error flag, the event flag, the irq line (10_state.md R15,
R16, 60_exceptions.md R205 to R212). ERR and EVT_PEND are the engine's only flags (R16). -/

namespace Sys2Proof.Machine

/-- `STATUS` as GETR reads it: EVT_PEND in bit 8, ERRCODE in 7:4, bits 3:1 zero, ERR in bit 0 (R16). -/
def Status.word (st : Status) : BitVec 9 :=
  BitVec.ofBool st.evtPend ++ st.errCode ++ 0#3 ++ BitVec.ofBool st.err

/-- `CTRL.EVT_IE`, bit 0 (R15). -/
def evtIe (ctrl : BitVec 2) : Bool := ctrl.getLsbD 0

/-- `CTRL.ICMP4_IPHDR`, bit 1 (R15). -/
def icmp4IpHdr (ctrl : BitVec 2) : Bool := ctrl.getLsbD 1

/-- The output `irq`, at every moment this function of the state (R29, R212). -/
def State.irq (s : State) : Bool := s.status.evtPend && evtIe s.ctrl

/-- The four command errors (R205). -/
inductive CmdError where
  /-- Raised by decoding: the word matches no row of the opcode map. -/
  | illegal
  /-- Raised by SETAF, GETR, SETV: a field value the command refuses. -/
  | operand
  /-- Raised by STB, LDB, SETRXLEN, CSUM: an offset or length outside the buffer. -/
  | range
  /-- Raised by BIP4, BIP6, BTCP, BUDP, BUILD: the address family tags do not allow the build. -/
  | af
deriving DecidableEq, Repr

/-- The codes of R205. -/
def CmdError.code : CmdError → BitVec 4
  | .illegal => 1#4
  | .operand => 2#4
  | .range => 3#4
  | .af => 4#4

/-- `STATUS` after a `raise`: ERR is 1, and ERRCODE is the new code only if ERR was 0 (R207). -/
def Status.recordError (e : CmdError) (st : Status) : Status :=
  { st with err := true, errCode := if st.err then st.errCode else e.code }

/-- `STATUS` after CLRERR: ERR and ERRCODE are 0, EVT_PEND stays (R87). -/
def Status.clearError (st : Status) : Status := { st with err := false, errCode := 0#4 }

/-- `STATUS` with EVT_PEND written (R88, R173, R193). -/
def Status.withPend (b : Bool) (st : Status) : Status := { st with evtPend := b }

end Sys2Proof.Machine
end

