-- ==== Sys2Proof/Machine/Ops.lean ====
section
/-! DEFINITION. The named operations of the engine: reading and writing sparse data, the buffers, the verdict table and the
registers; answering a command; raising a command error and clearing the record (20_memory.md, 60_exceptions.md). -/

namespace Sys2Proof.Machine

-- Sparse data: a list of keys and values, `d` the value of an unlisted key.

/-- The value at key `k`. -/
def Sparse.get {α : Type} (d : α) (k : Nat) : List (Nat × α) → α
  | [] => d
  | c :: m => if c.1 = k then c.2 else Sparse.get d k m

/-- The entry `(k, v)` put in its place in a rising list. -/
def Sparse.insert {α : Type} (k : Nat) (v : α) : List (Nat × α) → List (Nat × α)
  | [] => [(k, v)]
  | c :: m => if k < c.1 then (k, v) :: c :: m else c :: Sparse.insert k v m

/-- The data with `v` at key `k`; writing the value of an unlisted key removes the entry. -/
def Sparse.set {α : Type} [DecidableEq α] (d : α) (k : Nat) (v : α) (m : List (Nat × α)) : List (Nat × α) :=
  let rest := m.filter (fun c => c.1 ≠ k)
  if v = d then rest else Sparse.insert k v rest

-- Byte buffers (R7, R40, R43).

/-- The byte at an offset. -/
def Memory.read (m : Memory) (off : Nat) : Byte := Sparse.get Memory.unlisted off m

/-- The buffer with one byte written. -/
def Memory.write (m : Memory) (off : Nat) (v : Byte) : Memory := Sparse.set Memory.unlisted off v m

/-- `MemRead(B, off, n)`: the bytes `B[off]` to `B[off+n-1]` (R7). -/
def Memory.readBytes (m : Memory) (off n : Nat) : List Byte := (List.range n).map (fun i => m.read (off + i))

/-- `MemWrite(B, off, bytes)`: `bytes[i]` to `B[off+i]` for each `i` (R7). -/
def Memory.writeBytes (m : Memory) (off : Nat) : List Byte → Memory
  | [] => m
  | v :: vs => Memory.writeBytes (m.write off v) (off + 1) vs

/-- `cap(b)`: 2048 for RXBUF, 64 for TXBUF (R44). -/
def cap : Buf → Nat
  | .rx => Config.rxCap
  | .tx => Config.txCap

/-- The buffer that bit `b` selects (R40, R64). -/
def State.buf (s : State) : Buf → Memory
  | .rx => s.rxbuf
  | .tx => s.txbuf

/-- The state with the buffer that bit `b` selects replaced. -/
def State.setBuf (b : Buf) (m : Memory) (s : State) : State :=
  match b with
  | .rx => { s with rxbuf := m }
  | .tx => { s with txbuf := m }

/-- One byte of a buffer: the read every claim about memory is stated with. -/
def State.readByte (s : State) (b : Buf) (off : Nat) : Byte := (s.buf b).read off

-- Byte order: every multi-byte quantity of a buffer is big-endian (R41).

/-- The number two bytes are, the first the more significant (R7 `be16`). -/
def be16 (hi lo : Byte) : Half := hi ++ lo

/-- The number four bytes are, the first the most significant (R7 `be32`). -/
def be32 (b0 b1 b2 b3 : Byte) : Word := b0 ++ b1 ++ b2 ++ b3

/-- The high byte of a 16-bit value. -/
def hiByte (v : Half) : Byte := v.extractLsb' 8 8

/-- The low byte of a 16-bit value. -/
def loByte (v : Half) : Byte := v.extractLsb' 0 8

/-- `bytes16(v)` (R7). -/
def bytes16 (v : Half) : List Byte := [hiByte v, loByte v]

/-- `bytes32(v)` (R7). -/
def bytes32 (v : Word) : List Byte :=
  [v.extractLsb' 24 8, v.extractLsb' 16 8, v.extractLsb' 8 8, v.extractLsb' 0 8]

-- The context registers (R11, R13).

/-- The address register that bit `r` selects. -/
def State.addr (s : State) : AddrReg → Addr
  | .src => s.srcAddr
  | .dst => s.dstAddr

/-- The state with the address register that bit `r` selects replaced. -/
def State.setAddr (r : AddrReg) (a : Addr) (s : State) : State :=
  match r with
  | .src => { s with srcAddr := a }
  | .dst => { s with dstAddr := a }

/-- The address family tag of the address register that bit `r` selects. -/
def State.afTag (s : State) : AddrReg → AF
  | .src => s.srcAf
  | .dst => s.dstAf

/-- The state with the tag of the address register that bit `r` selects replaced. -/
def State.setAfTag (r : AddrReg) (f : AF) (s : State) : State :=
  match r with
  | .src => { s with srcAf := f }
  | .dst => { s with dstAf := f }

/-- The address with halfword `idx` written: bytes `2*idx` and `2*idx+1`, the high byte first (R13, R82). -/
def Addr.setHalf (a : Addr) (idx : Fin 8) (v : Half) : Addr :=
  (a.set (2 * idx.val) (hiByte v) (by omega)).set (2 * idx.val + 1) (loByte v) (by omega)

/-- Word `k` of an address: `be32(A, 4k)` (R12). -/
def Addr.word (a : Addr) (k : Fin 4) : Word :=
  be32 (a[4 * k.val]'(by omega)) (a[4 * k.val + 1]'(by omega)) (a[4 * k.val + 2]'(by omega)) (a[4 * k.val + 3]'(by omega))

/-- `A[0..3]`, the bytes of an IPv4 address (R13). -/
def Addr.v4 (a : Addr) : Vector Byte 4 := #v[a[0], a[1], a[2], a[3]]

-- The verdict table (R23).

/-- The key of the entry `VT[p][port]`; a (protocol, port) pair has one key and a key at most one pair (R40). -/
def vtKey (p : Proto) (port : Half) : Nat := p.code * 65536 + port.toNat

/-- `VT[p][port]` (R23). -/
def State.verdict (s : State) (p : Proto) (port : Half) : Verdict := Sparse.get .absent (vtKey p port) s.vt

/-- The state with `VT[p][port]` written. -/
def State.setVerdict (p : Proto) (port : Half) (v : Verdict) (s : State) : State :=
  { s with vt := Sparse.set .absent (vtKey p port) v s.vt }

-- Answers (R7, R70, R207, R208).

/-- The state after the response `d` is given. -/
def State.answer (d : Response) (s : State) : State := { s with resp := some d }

/-- `respond(d)`: end the command with response `(0, d)` (R7). -/
def respond (d : Word) (s : State) : Result := .next (s.answer ⟨0#4, d⟩)

/-- The error record of `raise` for error `e` and command word `w`: the first error since the last CLRERR is kept (R207). -/
def State.recordError (e : CmdError) (w : Word) (s : State) : State :=
  { s with status := s.status.recordError e, errCmd := if s.status.err then s.errCmd else w }

/-- `raise E(w)`: the one way a command ends in an error. It writes the error record and nothing else, answers `(code of E, 0)`,
and the engine goes on (R207). -/
def raise (e : CmdError) (w : Word) (s : State) : Result := .next ((s.recordError e w).answer ⟨e.code, 0#32⟩)

/-- Leaving the error state: ERR, ERRCODE and ERRCMD are cleared; nothing else was saved, so nothing else is restored (R208). -/
def State.clearErrorRecord (s : State) : State := { s with status := s.status.clearError, errCmd := 0#32 }

-- Build results (R18, D16).

/-- The state after a build command produced `bytes`: they are at the start of TXBUF and TX_LEN is their number (R18). -/
def State.setTx (bytes : List Byte) (s : State) : State :=
  { s with txbuf := s.txbuf.writeBytes 0 bytes, txLen := .ofNat 7 bytes.length }

/-- The end of every build command that does not raise: `MemWrite(TXBUF, 0, bytes)`, TX_LEN, and the length as the response. -/
def emit (bytes : List Byte) (s : State) : Result := respond (.ofNat 32 bytes.length) (s.setTx bytes)

-- The port (R14, R47, R230).

/-- The state in which the engine has taken the oldest event and `rest` is what the host presents next. -/
def State.setInput (rest : List HostEvent) (s : State) : State := { s with input := rest }

/-- The state after a pulse of the reset input: the reset value of every component; the host's further events stay (R230).
Log 4. -/
def State.afterReset (rest : List HostEvent) : State := State.reset.setInput rest

/-- The host presents the word `w` next, before what it was about to present. -/
def State.present (w : Word) (s : State) : State := s.setInput (.command w :: s.input)

end Sys2Proof.Machine
end

