-- ==== Sys2Proof/Machine/Operands.lean ====
section
/-! DEFINITION. The operand forms: address family codes, verdict codes, register selectors (30_encoding.md R63, 10_state.md R12,
R13, R24). -/

namespace Sys2Proof.Machine

/-- The code of an address family tag (R13). -/
def AF.code : AF → BitVec 2
  | .none => 0#2
  | .v4 => 1#2
  | .v6 => 2#2

/-- The tag an `af` operand names; code 3 names none and is refused (R63, R81). -/
def AF.ofOperand (c : BitVec 2) : Option AF :=
  if c = 0#2 then some .none else if c = 1#2 then some .v4 else if c = 2#2 then some .v6 else Option.none

/-- The code of a verdict (R24). -/
def Verdict.code : Verdict → BitVec 3
  | .absent => 0#3
  | .pending => 1#3
  | .opened => 2#3
  | .closed => 3#3
  | .filtered => 4#3

/-- The terminal verdict a `v` operand names; 0, 1, 5, 6 and 7 are refused (R63, R191). -/
def Verdict.ofOperand (c : BitVec 3) : Option Verdict :=
  if c = 2#3 then some .opened else if c = 3#3 then some .closed else if c = 4#3 then some .filtered else Option.none

/-- The 28 registers GETR can read (R12). -/
inductive RegName where
  | ctrl | status | errcmd | srcAf | dstAf | srcPort | dstPort | txLen | rxLen | csAcc | csRes
  | prKind | prOff | prPorts | prFlags | prIcmp | prEproto | prEports | res | evt
  | srcAddr (k : Fin 4)
  | dstAddr (k : Fin 4)
deriving DecidableEq, Repr

/-- The selector table (R12). -/
def selectorTable : List (BitVec 8 × RegName) :=
  [(0x00, .ctrl), (0x01, .status), (0x02, .errcmd), (0x03, .srcAf), (0x04, .dstAf), (0x05, .srcPort), (0x06, .dstPort),
   (0x07, .txLen), (0x08, .rxLen), (0x09, .csAcc), (0x0A, .csRes)] ++
  [(0x0B, .prKind), (0x0C, .prOff), (0x0D, .prPorts), (0x0E, .prFlags), (0x0F, .prIcmp), (0x10, .prEproto),
   (0x11, .prEports), (0x12, .res), (0x13, .evt)] ++
  [(0x20, .srcAddr 0), (0x21, .srcAddr 1), (0x22, .srcAddr 2), (0x23, .srcAddr 3),
   (0x24, .dstAddr 0), (0x25, .dstAddr 1), (0x26, .dstAddr 2), (0x27, .dstAddr 3)]

/-- The register a selector names; a selector not in the table names none (R12). -/
def RegName.ofSelector (sel : BitVec 8) : Option RegName := selectorTable.lookup sel

/-- `REG[sel]` as a 32-bit value, a narrower register zero-extended (R12). -/
def RegName.read (s : State) : RegName → Word
  | .ctrl => s.ctrl.setWidth 32
  | .status => s.status.word.setWidth 32
  | .errcmd => s.errCmd
  | .srcAf => s.srcAf.code.setWidth 32
  | .dstAf => s.dstAf.code.setWidth 32
  | .srcPort => s.srcPort.setWidth 32
  | .dstPort => s.dstPort.setWidth 32
  | .txLen => s.txLen.setWidth 32
  | .rxLen => s.rxLen.setWidth 32
  | .csAcc => s.csAcc
  | .csRes => s.csRes.setWidth 32
  | .prKind => s.pr.kind.setWidth 32
  | .prOff => s.pr.off.setWidth 32
  | .prPorts => s.pr.ports
  | .prFlags => s.pr.flags.setWidth 32
  | .prIcmp => s.pr.icmp.setWidth 32
  | .prEproto => s.pr.eproto.setWidth 32
  | .prEports => s.pr.eports
  | .res => s.res.setWidth 32
  | .evt => s.evt.setWidth 32
  | .srcAddr k => s.srcAddr.word k
  | .dstAddr k => s.dstAddr.word k

/-- The two families a header can be built for (R130). -/
inductive IpVer where
  | v4 | v6
deriving DecidableEq, Repr

/-- `family()`: chosen by the two tags alone; none unless they agree and are loaded (R130). -/
def family (src dst : AF) : Option IpVer :=
  match src, dst with
  | .v4, .v4 => some .v4
  | .v6, .v6 => some .v6
  | _, _ => Option.none

end Sys2Proof.Machine
end

