-- ==== Sys2Proof/Machine/Buffers.lean ====
section
/-! DEFINITION. The buffer commands: STB, LDB, SETRXLEN (40_context_commands.md R89 to R91, 20_memory.md R44). -/

namespace Sys2Proof.Machine

/-- STB `b, off, data` (R89). -/
def execStb (b : Buf) (off : Nat) (data : Byte) (s : State) : Result :=
  if cap b ≤ off then raise .range (encode (.stb b off data)) s
  else respond 0#32 (s.setBuf b ((s.buf b).write off data))

/-- LDB `b, off` (R90). -/
def execLdb (b : Buf) (off : Nat) (s : State) : Result :=
  if cap b ≤ off then raise .range (encode (.ldb b off)) s
  else respond ((s.readByte b off).setWidth 32) s

/-- SETRXLEN `len` (R91). -/
def execSetrxlen (len : Nat) (s : State) : Result :=
  if Config.rxCap < len then raise .range (encode (.setrxlen len)) s
  else respond 0#32 { s with rxLen := .ofNat 12 len }

end Sys2Proof.Machine
end

