-- ==== Sys2Proof/Machine/Checksum.lean ====
section
/-! DEFINITION. The checksum unit: the Internet checksum of a byte sequence and CSUM (41_checksum.md R100 to R106). -/

namespace Sys2Proof.Machine

/-- At most `fuel` steps of the fold of R101. -/
def foldSteps : Nat → Nat → Nat
  | 0, s => s
  | fuel + 1, s => if s / 65536 = 0 then s else foldSteps fuel (s % 65536 + s / 65536)

/-- `fold(s)`: while a bit above bit 15 is set, the low 16 bits plus the number the higher bits form. Each step makes `s`
smaller, so `s` steps are enough (R101). -/
def fold (s : Nat) : Nat := foldSteps s s

/-- `words(s)`: the big-endian 16-bit words; a trailing odd byte is the high byte of a last word (R102). -/
def words : List Byte → List Nat
  | [] => []
  | [hi] => [hi.toNat * 256]
  | hi :: lo :: rest => (hi.toNat * 256 + lo.toNat) :: words rest

/-- `acc(s)`: the exact sum of the words (R103). Log 10. -/
def acc (s : List Byte) : Nat := (words s).sum

/-- `csum(s)`: the one's complement of the folded sum (R104). A sequence of more than 131072 bytes is refused: there the result
is not specified (R103, U5). Log 10. -/
def csum (s : List Byte) : Option Half :=
  if s.length ≤ Config.csumMax then some (.ofNat 16 (0xFFFF - fold (acc s))) else none

/-- A sequence of at most 131072 bytes has a checksum. -/
theorem csum_isSome {s : List Byte} (h : s.length ≤ Config.csumMax) : (csum s).isSome = true := by simp [csum, h]

/-- The checksum of a sequence that `csum` takes: every sequence the engine sums is one, so no command meets a refusal (R103,
R105). -/
def csumWithin (s : List Byte) (h : s.length ≤ Config.csumMax) : Half := (csum s).get (csum_isSome h)

/-- The checksum `c` stored at offset `o` of a header, the high byte at the lower offset (R108, R117, R134, R137). -/
def storeChecksum (o : Nat) (c : Half) (h : List Byte) : List Byte := (h.set o (hiByte c)).set (o + 1) (loByte c)

/-- A region inside a buffer has at most 2048 bytes, so `csum` takes it (R103). -/
theorem region_le_csumMax {b : Buf} {off len : Nat} (m : Memory) (h : ¬cap b < off + len) :
    (m.readBytes off len).length ≤ Config.csumMax := by
  cases b <;> simp only [cap, Config.rxCap, Config.txCap] at h <;>
    simp only [Memory.readBytes, List.length_map, List.length_range, Config.csumMax] <;> omega

/-- CSUM `b, off, len` (R106). -/
def execCsum (b : Buf) (off len : Nat) (s : State) : Result :=
  if h : cap b < off + len then raise .range (encode (.csum b off len)) s
  else
    let region := (s.buf b).readBytes off len
    let c := csumWithin region (region_le_csumMax _ h)
    respond (c.setWidth 32) { s with csAcc := .ofNat 32 (acc region), csRes := c }

end Sys2Proof.Machine
end

