-- ==== Sys2Proof/Machine/IpCodec.lean ====
section
/-! DEFINITION. The IP header codec: the IPv4 and IPv6 headers, BIP4, BIP6 (42_ip_codec.md R115 to R122). -/

namespace Sys2Proof.Machine

/-- `proto(p)`: the protocol number (R116). -/
def protoNumber : Proto → Byte
  | .tcp => Config.protoTcp
  | .udp => Config.protoUdp

/-- `tlen(p)`: the transport-header length (R116). -/
def transportLen : Proto → Nat
  | .tcp => 20
  | .udp => 8

/-- The 20 bytes of the IPv4 header with the checksum field zero (R117). -/
def ipv4Zeroed (ident : Half) (src4 dst4 : Vector Byte 4) (p : Proto) : List Byte :=
  [0x45#8, 0x00#8] ++ bytes16 (.ofNat 16 (20 + transportLen p)) ++ bytes16 ident ++ [0x00#8, 0x00#8] ++
    [Config.ipv4Ttl, protoNumber p] ++ [0x00#8, 0x00#8] ++ src4.toList ++ dst4.toList

@[simp] theorem length_ipv4Zeroed (ident : Half) (src4 dst4 : Vector Byte 4) (p : Proto) :
    (ipv4Zeroed ident src4 dst4 p).length = 20 := by simp [ipv4Zeroed, bytes16]

/-- `ipv4_header(src4, dst4, p)` with the identification value as an argument (R117). -/
def ipv4Header (ident : Half) (src4 dst4 : Vector Byte 4) (p : Proto) : List Byte :=
  let h := ipv4Zeroed ident src4 dst4 p
  storeChecksum 10 (csumWithin h (by simp [h, Config.csumMax])) h

/-- `ipv6_header(src16, dst16, p)` (R119). -/
def ipv6Header (src16 dst16 : Vector Byte 16) (p : Proto) : List Byte :=
  [0x60#8, 0x00#8, 0x00#8, 0x00#8] ++ bytes16 (.ofNat 16 (transportLen p)) ++
    [protoNumber p, Config.ipv6HopLimit] ++ src16.toList ++ dst16.toList

/-- The IP header of a packet of family `v` between the context addresses, for the instance's `IPV4_ID` (R117, R119). -/
def ipHeader (v : IpVer) (src dst : Addr) (p : Proto) : List Byte :=
  match v with
  | .v4 => ipv4Header Config.ipv4Id src.v4 dst.v4 p
  | .v6 => ipv6Header src dst p

/-- BIP4 `p` (R118). -/
def execBip4 (p : Proto) (s : State) : Result :=
  if s.srcAf ≠ .v4 ∨ s.dstAf ≠ .v4 then raise .af (encode (.bip4 p)) s
  else emit (ipHeader .v4 s.srcAddr s.dstAddr p) s

/-- BIP6 `p` (R121). -/
def execBip6 (p : Proto) (s : State) : Result :=
  if s.srcAf ≠ .v6 ∨ s.dstAf ≠ .v6 then raise .af (encode (.bip6 p)) s
  else emit (ipHeader .v6 s.srcAddr s.dstAddr p) s

end Sys2Proof.Machine
end

