-- ==== Sys2Proof/Machine/TransportCodec.lean ====
section
/-! DEFINITION. The transport header codec: the pseudo-headers, the TCP and UDP headers, BTCP, BUDP (43_transport_codec.md R130
to R140). -/

namespace Sys2Proof.Machine

/-- The bytes of a pseudo-header: 12 over IPv4, 40 over IPv6 (R131, R132). -/
structure PseudoHeader where
  bytes : List Byte
  size : bytes.length = 12 ∨ bytes.length = 40
deriving DecidableEq, Repr

/-- A pseudo-header in front of at most 20 bytes is a sequence `csum` takes (R103). -/
theorem PseudoHeader.append_le_csumMax (ph : PseudoHeader) {h : List Byte} (hh : h.length ≤ 20) :
    (ph.bytes ++ h).length ≤ Config.csumMax := by
  have := ph.size
  simp only [List.length_append, Config.csumMax]
  omega

/-- `pseudo4(src4, dst4, p)` (R131). -/
def pseudo4 (src4 dst4 : Vector Byte 4) (p : Proto) : PseudoHeader where
  bytes := src4.toList ++ dst4.toList ++ [0x00#8, protoNumber p] ++ bytes16 (.ofNat 16 (transportLen p))
  size := by simp [bytes16]

/-- `pseudo6(src16, dst16, p)` (R132). -/
def pseudo6 (src16 dst16 : Vector Byte 16) (p : Proto) : PseudoHeader where
  bytes := src16.toList ++ dst16.toList ++ bytes32 (.ofNat 32 (transportLen p)) ++ [0x00#8, 0x00#8, 0x00#8, protoNumber p]
  size := by simp [bytes32]

/-- The pseudo-header of family `v` between the context addresses; it is summed and never stored (R133). -/
def pseudo (v : IpVer) (src dst : Addr) (p : Proto) : PseudoHeader :=
  match v with
  | .v4 => pseudo4 src.v4 dst.v4 p
  | .v6 => pseudo6 src dst p

/-- The 20 bytes of the TCP header with the checksum field zero (R134). -/
def tcpZeroed (sp dp : Half) : List Byte :=
  bytes16 sp ++ bytes16 dp ++ [0x00#8, 0x00#8, 0x00#8, 0x00#8] ++ [0x00#8, 0x00#8, 0x00#8, 0x00#8] ++
    [0x50#8, Config.tcpFlagsOut] ++ bytes16 Config.tcpWindow ++ [0x00#8, 0x00#8] ++ [0x00#8, 0x00#8]

@[simp] theorem length_tcpZeroed (sp dp : Half) : (tcpZeroed sp dp).length = 20 := rfl

/-- `tcp_header(ph, sp, dp)` (R134). -/
def tcpHeader (ph : PseudoHeader) (sp dp : Half) : List Byte :=
  storeChecksum 16 (csumWithin (ph.bytes ++ tcpZeroed sp dp) (ph.append_le_csumMax (by simp))) (tcpZeroed sp dp)

/-- The 8 bytes of the UDP header with the checksum field zero (R136). -/
def udpZeroed (sp dp : Half) : List Byte := bytes16 sp ++ bytes16 dp ++ bytes16 8#16 ++ [0x00#8, 0x00#8]

@[simp] theorem length_udpZeroed (sp dp : Half) : (udpZeroed sp dp).length = 8 := rfl

/-- `udp_header(ph, sp, dp)`; a checksum of 0x0000 is stored as it is (R137, R140). -/
def udpHeader (ph : PseudoHeader) (sp dp : Half) : List Byte :=
  storeChecksum 6 (csumWithin (ph.bytes ++ udpZeroed sp dp) (ph.append_le_csumMax (by simp))) (udpZeroed sp dp)

/-- The transport header of protocol `p` over the context registers of a state, for family `v` (R134, R137). -/
def transportHeader (v : IpVer) (p : Proto) (s : State) : List Byte :=
  let ph := pseudo v s.srcAddr s.dstAddr p
  match p with
  | .tcp => tcpHeader ph s.srcPort s.dstPort
  | .udp => udpHeader ph s.srcPort s.dstPort

/-- BTCP (R135). -/
def execBtcp (s : State) : Result :=
  match family s.srcAf s.dstAf with
  | none => raise .af (encode .btcp) s
  | some v => emit (transportHeader v .tcp s) s

/-- BUDP (R138). -/
def execBudp (s : State) : Result :=
  match family s.srcAf s.dstAf with
  | none => raise .af (encode .budp) s
  | some v => emit (transportHeader v .udp s) s

end Sys2Proof.Machine
end

