-- ==== Sys2Proof/Machine/Builder.lean ====
section
/-! DEFINITION. The packet builder: BUILD (44_packet_builder.md R145 to R148). -/

namespace Sys2Proof.Machine

/-- The whole packet of family `v`: the IP header followed at once by the transport header (R145, R146). -/
def packet (v : IpVer) (p : Proto) (s : State) : List Byte :=
  ipHeader v s.srcAddr s.dstAddr p ++ transportHeader v p s

/-- BUILD `p`: the destination's family is looked at first, then the source's must equal it (R146, R209). -/
def execBuild (p : Proto) (s : State) : Result :=
  match s.dstAf with
  | .v4 => if s.srcAf ≠ .v4 then raise .af (encode (.build p)) s else emit (packet .v4 p s) s
  | .v6 => if s.srcAf ≠ .v6 then raise .af (encode (.build p)) s else emit (packet .v6 p s) s
  | .none => raise .af (encode (.build p)) s

end Sys2Proof.Machine
end

