-- ==== Sys2Proof/Machine/Parser.lean ====
section
/-! DEFINITION. The packet parser: `parse`, the parse result registers, PARSE (45_parser_classifier.md R155 to R167, R170). -/

namespace Sys2Proof.Machine

/-- The result of `parse` (R157). -/
inductive Parsed where
  /-- A needed byte is missing. -/
  | trunc
  | tcp (off : Nat) (sport dport : Half) (flags : Byte)
  | icmp (ver : IpVer) (base : Nat) (type code : Byte) (depth : Nat) (eproto : Byte) (esport edport : Half)
deriving DecidableEq, Repr

/-- `need(n)`: the parse goes on only if the datagram of length `L` has its first `n` bytes (R158). -/
def need (L n : Nat) (k : Parsed) : Parsed := if L < n then .trunc else k

/-- `be16(RX, i)`. -/
def rx16 (rx : Memory) (i : Nat) : Half := be16 (rx.read i) (rx.read (i + 1))

/-- `RX[i][3:0] * 4`: the length of the IPv4 header that begins at `i`, unvalidated (R159, R163, R165). -/
def headerLen (rx : Memory) (i : Nat) : Nat := (rx.read i).toNat % 16 * 4

/-- `tcp_fields` (R161). -/
def tcpFields (rx : Memory) (L off : Nat) : Parsed :=
  need L (off + 14) (.tcp off (rx16 rx off) (rx16 rx (off + 2)) (rx.read (off + 13)))

/-- The offset of the TCP header on channel TCP4: 0 if bytes 2 and 3 are the session source port, else behind an IPv4 header
(R159). The reads are guarded by the `need 4` of `parseTcp4`. -/
def tcp4Offset (rx : Memory) (sp : Half) : Nat := if rx16 rx 2 = sp then 0 else headerLen rx 0

/-- Channel TCP4: the dual-mode parse (R159, R161). -/
def parseTcp4 (rx : Memory) (L : Nat) (sp : Half) : Parsed := need L 4 (tcpFields rx L (tcp4Offset rx sp))

/-- The part of `parse_icmp4` behind the optional outer header: the ICMP message begins at `base` (R163). -/
def parseIcmp4At (rx : Memory) (L base : Nat) : Parsed :=
  need L (base + 2)
    (if rx.read base ≠ 3#8 ∨ rx.read (base + 1) ≠ 3#8 then
      .icmp .v4 base (rx.read base) (rx.read (base + 1)) 0 0#8 0#16 0#16
    else
      let e := base + 8
      need L (e + 10)
        (if rx.read (e + 9) ≠ 17#8 then .icmp .v4 base 3#8 3#8 1 (rx.read (e + 9)) 0#16 0#16
        else
          let t := e + headerLen rx e
          need L (t + 4) (.icmp .v4 base 3#8 3#8 2 17#8 (rx16 rx t) (rx16 rx (t + 2)))))

/-- `parse_icmp4` (R163). -/
def parseIcmp4 (rx : Memory) (L : Nat) (iphdr : Bool) : Parsed :=
  if iphdr then need L 1 (parseIcmp4At rx L (headerLen rx 0)) else parseIcmp4At rx L 0

/-- `parse_icmp6` (R164). -/
def parseIcmp6 (rx : Memory) (L : Nat) : Parsed :=
  need L 2
    (if rx.read 0 ≠ 1#8 ∨ rx.read 1 ≠ 4#8 then .icmp .v6 0 (rx.read 0) (rx.read 1) 0 0#8 0#16 0#16
    else
      need L 15
        (if rx.read 14 ≠ 17#8 then .icmp .v6 0 1#8 4#8 1 (rx.read 14) 0#16 0#16
        else need L 52 (.icmp .v6 0 1#8 4#8 2 17#8 (rx16 rx 48) (rx16 rx 50))))

/-- `parse(ch, RX, L, SP, iphdr)` (R166). -/
def parse (ch : Channel) (rx : Memory) (L : Nat) (sp : Half) (iphdr : Bool) : Parsed :=
  match ch with
  | .tcp4 => parseTcp4 rx L sp
  | .tcp6 => tcpFields rx L 0
  | .icmp4 => parseIcmp4 rx L iphdr
  | .icmp6 => parseIcmp6 rx L

/-- The parse of the datagram a state holds: `RXBUF`, `RX_LEN`, `SRC_PORT`, `CTRL.ICMP4_IPHDR` (R170). -/
def State.parsed (s : State) (ch : Channel) : Parsed :=
  parse ch s.rxbuf s.rxLen.toNat s.srcPort (icmp4IpHdr s.ctrl)

/-- `PR_KIND` from its fields: depth in bits 9:8, channel in 5:4, kind in 2:0, the others 0 (R20). -/
def prKindWord (depth : Nat) (ch : Channel) (kind : BitVec 3) : BitVec 10 :=
  BitVec.ofNat 2 depth ++ 0#2 ++ BitVec.ofNat 2 ch.code ++ 0#1 ++ kind

/-- `kind` of an ICMP result: 2 `PK_ICMP4`, 3 `PK_ICMP6` (R20). -/
def icmpKind : IpVer → BitVec 3
  | .v4 => 2#3
  | .v6 => 3#3

/-- The seven parse result registers from a result and the command's channel (R167). -/
def parseRegs (ch : Channel) : Parsed → ParseRegs
  | .trunc => { kind := prKindWord 0 ch 4#3, off := 0, ports := 0, flags := 0, icmp := 0, eproto := 0, eports := 0 }
  | .tcp off sport dport flags =>
    { kind := prKindWord 0 ch 1#3, off := .ofNat 6 off, ports := sport ++ dport, flags := flags,
      icmp := 0, eproto := 0, eports := 0 }
  | .icmp ver base type code depth eproto esport edport =>
    { kind := prKindWord depth ch (icmpKind ver), off := .ofNat 6 base, ports := 0, flags := 0,
      icmp := type ++ code, eproto := eproto, eports := esport ++ edport }

/-- The state with the seven parse result registers written. -/
def State.setPr (pr : ParseRegs) (s : State) : State := { s with pr := pr }

/-- PARSE `ch` (R170). -/
def execParse (ch : Channel) (s : State) : Result :=
  let pr := parseRegs ch (s.parsed ch)
  respond (pr.kind.setWidth 32) (s.setPr pr)

end Sys2Proof.Machine
end

