-- ==== Sys2Proof/Machine/Classifier.lean ====
section
/-! DEFINITION. The response classifier: `candidate`, `correlate`, CLASSIFY (45_parser_classifier.md R168 to R174). -/

namespace Sys2Proof.Machine

/-- The `(port, proto, verdict)` triple a datagram indicates (R168). -/
structure Candidate where
  port : Half
  proto : Proto
  verdict : Verdict
deriving DecidableEq, Repr

/-- `candidate(r, SP)` (R168). -/
def candidate (r : Parsed) (sp : Half) : Option Candidate :=
  match r with
  | .trunc => none
  | .tcp _ sport dport flags =>
    if dport ≠ sp then none
    else if flags = 0x12#8 then some ⟨sport, .tcp, .opened⟩
    else if flags = 0x04#8 ∨ flags = 0x14#8 then some ⟨sport, .tcp, .closed⟩
    else none
  | .icmp _ _ _ _ depth eproto _ edport => if depth = 2 ∧ eproto = 17#8 then some ⟨edport, .udp, .closed⟩ else none

/-- The outcome of a CLASSIFY (R172). -/
inductive ClassOutcome where
  | updated | dup | noProbe | ignored | parseErr
deriving DecidableEq, Repr

/-- The codes of R172; code 0 is the reset value of RES only. -/
def ClassOutcome.code : ClassOutcome → BitVec 4
  | .updated => 1#4
  | .dup => 2#4
  | .noProbe => 3#4
  | .ignored => 4#4
  | .parseErr => 5#4

/-- The outcome `correlate` answers for the entry it finds (R169). -/
def correlateOutcome : Verdict → ClassOutcome
  | .pending => .updated
  | .absent => .noProbe
  | .opened => .dup
  | .closed => .dup
  | .filtered => .dup

/-- The code of a protocol as one bit (R63, R21). -/
def Proto.bit : Proto → BitVec 1
  | .tcp => 0#1
  | .udp => 1#1

/-- `RES` of a candidate: outcome in bits 23:20, verdict in 19:17, protocol in 16, port in 15:0 (R21, R172). -/
def resWord (o : ClassOutcome) (c : Candidate) : BitVec 24 := o.code ++ c.verdict.code ++ Proto.bit c.proto ++ c.port

/-- `RES` without a candidate: port, protocol and verdict are 0 (R172). -/
def resNone (o : ClassOutcome) : BitVec 24 := o.code ++ 0#20

/-- The state with `RES` written. -/
def State.setRes (r : BitVec 24) (s : State) : State := { s with res := r }

/-- The classification event: the entry takes the candidate's verdict, `EVT` takes `RES`, EVT_PEND is set (R169, R173, R210). -/
def State.setEvent (c : Candidate) (r : BitVec 24) (s : State) : State :=
  { s.setVerdict c.proto c.port c.verdict with evt := r, status := s.status.withPend true }

/-- The last part of CLASSIFY: `RES` becomes the response (R173). -/
def answerRes (r : BitVec 24) (s : State) : Result := respond (r.setWidth 32) (s.setRes r)

/-- CLASSIFY from the parse result on (R168, R169, R173). -/
def classifyParsed (r : Parsed) (s : State) : Result :=
  if r = .trunc then answerRes (resNone .parseErr) s
  else
    match candidate r s.srcPort with
    | none => answerRes (resNone .ignored) s
    | some c =>
      let o := correlateOutcome (s.verdict c.proto c.port)
      answerRes (resWord o c) (if o = .updated then s.setEvent c (resWord o c) else s)

/-- CLASSIFY `ch` (R173). -/
def execClassify (ch : Channel) (s : State) : Result :=
  let r := s.parsed ch
  classifyParsed r (s.setPr (parseRegs ch r))

end Sys2Proof.Machine
end

