-- ==== Sys2Proof/Machine/Context.lean ====
section
/-! DEFINITION. The context commands: NOP, SETAF, SETAH, SETSP, SETDP (40_context_commands.md R80 to R84). -/

namespace Sys2Proof.Machine

/-- NOP (R80). -/
def execNop (s : State) : Result := respond 0#32 s

/-- SETAF `r, af` (R81). -/
def execSetaf (r : AddrReg) (af : BitVec 2) (s : State) : Result :=
  match AF.ofOperand af with
  | none => raise .operand (encode (.setaf r af)) s
  | some f => respond 0#32 (s.setAfTag r f)

/-- SETAH `r, idx, imm16` (R82). -/
def execSetah (r : AddrReg) (idx : Fin 8) (imm16 : Half) (s : State) : Result :=
  respond 0#32 (s.setAddr r ((s.addr r).setHalf idx imm16))

/-- SETSP `imm16` (R83). -/
def execSetsp (imm16 : Half) (s : State) : Result := respond 0#32 { s with srcPort := imm16 }

/-- SETDP `imm16` (R84). -/
def execSetdp (imm16 : Half) (s : State) : Result := respond 0#32 { s with dstPort := imm16 }

end Sys2Proof.Machine
end

