-- ==== Sys2Proof/Machine/Control.lean ====
section
/-! DEFINITION. The control commands: SETCTL, GETR, CLRERR, ACK (40_context_commands.md R85 to R88). -/

namespace Sys2Proof.Machine

/-- SETCTL `k` (R85). -/
def execSetctl (k : BitVec 2) (s : State) : Result := respond 0#32 { s with ctrl := k }

/-- GETR `sel` (R86). -/
def execGetr (sel : BitVec 8) (s : State) : Result :=
  match RegName.ofSelector sel with
  | none => raise .operand (encode (.getr sel)) s
  | some r => respond (r.read s) s

/-- CLRERR, the return from an error (R87, R208). -/
def execClrerr (s : State) : Result := respond 0#32 s.clearErrorRecord

/-- ACK (R88). -/
def execAck (s : State) : Result := respond 0#32 { s with status := s.status.withPend false }

end Sys2Proof.Machine
end

