-- ==== Sys2Proof/Machine/VerdictTable.lean ====
section
/-! DEFINITION. The verdict table commands: ARM, SETV, GETV, CLRV (46_verdict_table.md R190 to R195). -/

namespace Sys2Proof.Machine

/-- The answer of ARM, SETV and GETV: the code of the entry after the command (R70). -/
def respondVerdict (p : Proto) (port : Half) (s : State) : Result := respond ((s.verdict p port).code.setWidth 32) s

/-- ARM `p, port` (R190). -/
def execArm (p : Proto) (port : Half) (s : State) : Result :=
  respondVerdict p port (if s.verdict p port = .absent then s.setVerdict p port .pending else s)

/-- SETV `p, port, v` (R191). -/
def execSetv (p : Proto) (port : Half) (v : BitVec 3) (s : State) : Result :=
  match Verdict.ofOperand v with
  | none => raise .operand (encode (.setv p port v)) s
  | some t => respondVerdict p port (if s.verdict p port = .pending then s.setVerdict p port t else s)

/-- GETV `p, port` (R192). -/
def execGetv (p : Proto) (port : Half) (s : State) : Result := respondVerdict p port s

/-- CLRV: every entry ABSENT, which the canonical form writes as the empty list; EVT and EVT_PEND cleared (R193). -/
def execClrv (s : State) : Result :=
  respond 0#32 { s with vt := [], evt := 0#24, status := s.status.withPend false }

end Sys2Proof.Machine
end

