-- ==== Sys2Proof/Machine/Dispatch.lean ====
section
/-! DEFINITION. The meaning of every command, one arm per constructor (30_encoding.md R62). -/

namespace Sys2Proof.Machine

def exec (i : Instr) (s : State) : Host.Outcome State Fault Refusal :=
  match i with
  | .nop => Sys2Proof.Machine.execNop s
  | .setaf r af => Sys2Proof.Machine.execSetaf r af s
  | .setah r idx imm16 => Sys2Proof.Machine.execSetah r idx imm16 s
  | .setsp imm16 => Sys2Proof.Machine.execSetsp imm16 s
  | .setdp imm16 => Sys2Proof.Machine.execSetdp imm16 s
  | .setctl k => Sys2Proof.Machine.execSetctl k s
  | .getr sel => Sys2Proof.Machine.execGetr sel s
  | .clrerr => Sys2Proof.Machine.execClrerr s
  | .ack => Sys2Proof.Machine.execAck s
  | .stb b off data => Sys2Proof.Machine.execStb b off data s
  | .ldb b off => Sys2Proof.Machine.execLdb b off s
  | .setrxlen len => Sys2Proof.Machine.execSetrxlen len s
  | .csum b off len => Sys2Proof.Machine.execCsum b off len s
  | .bip4 p => Sys2Proof.Machine.execBip4 p s
  | .bip6 p => Sys2Proof.Machine.execBip6 p s
  | .btcp => Sys2Proof.Machine.execBtcp s
  | .budp => Sys2Proof.Machine.execBudp s
  | .build p => Sys2Proof.Machine.execBuild p s
  | .parse ch => Sys2Proof.Machine.execParse ch s
  | .classify ch => Sys2Proof.Machine.execClassify ch s
  | .arm p port => Sys2Proof.Machine.execArm p port s
  | .setv p port v => Sys2Proof.Machine.execSetv p port v s
  | .getv p port => Sys2Proof.Machine.execGetv p port s
  | .clrv => Sys2Proof.Machine.execClrv s

end Sys2Proof.Machine
end

