-- ==== Sys2Proof/Machine/Port.lean ====
section
/-! DEFINITION. The command port: what the engine does with one event the host presents (00_scope.md R8, 10_state.md R14,
30_encoding.md R65, 70_reset_and_hazards.md R230). -/

namespace Sys2Proof.Machine

/-- The execution of one command word: decoding comes first, an illegal word raises ERR_ILLEGAL and nothing else is examined
(R65, R209); a legal word runs to completion (R14). -/
def runWord (w : Word) (s : State) : Result :=
  match decode w with
  | .ok i => exec i s
  | .error _ => raise .illegal w s

/-- One event taken from the inputs; `rest` is what the host presents after it. -/
def takeEvent (e : HostEvent) (rest : List HostEvent) (s : State) : Result :=
  match e with
  | .command w => runWord w (s.setInput rest)
  | .reset => .next (State.afterReset rest)

/-- With nothing presented the engine waits, and nothing changes (R14, R220). Log 2. -/
def idle (s : State) : Result := .next s

end Sys2Proof.Machine
end

