-- ==== Sys2Proof/Machine/Step.lean ====
section
/-! DEFINITION. One step: the engine takes the oldest event the host presents (10_state.md R14, 20_memory.md R47). The engine
has no program counter and no fetch; where a step finds its command is the model's own field `input` (log 1). -/

namespace Sys2Proof.Machine

/-- One step of the machine. -/
def step (s : State) : Host.Outcome State Fault Refusal :=
  match s.input with
  | [] => idle s
  | e :: rest => takeEvent e rest s

/-- The state in which the very next step runs the command whose word the opcode table numbers `w`: the host presents that word
next. Nothing else changes. -/
def State.withFetchWord (s : State) (nbits w : Nat) : State := s.present (commandWord nbits w)

end Sys2Proof.Machine
end

