-- ==== Sys2Proof/Safety.lean ====
section
/-! DEFINITION. The terms claims are stated in: the state a raise leaves, the read-out of every register, the causes of the four
errors, the write matrix of 10_state.md R28, and the invariant of every reachable state. Each is written out from the spec's
text, not from the machine's own operations. -/

namespace Sys2Proof.Safety

open Sys2Proof.Machine

/-- The response of a command that completes with `data` (R70). -/
def okResp (data : Nat) : Option Response := some ⟨0#4, .ofNat 32 data⟩

/-- The response of a command that raises the error with this code (R70). -/
def errResp (code : Nat) : Option Response := some ⟨.ofNat 4 code, 0#32⟩

/-- The state after `raise` of the error with this code by the command word `w`: the error record, the response, nothing else
(R207). -/
def raised (code : Nat) (w : Word) (s : State) : State :=
  { s with
    status :=
      { err := true, errCode := if s.status.err then s.status.errCode else .ofNat 4 code, evtPend := s.status.evtPend }
    errCmd := if s.status.err then s.errCmd else w
    resp := errResp code }

/-- The value of byte `i` of an address register, as a number. -/
def addrByte (a : Addr) (i : Nat) : Nat := (a.toList.getD i 0#8).toNat

/-- The value of word `k` of an address register: four bytes, the first the most significant (R12). -/
def addrWord (a : Addr) (k : Nat) : Nat :=
  addrByte a (4 * k) * 2 ^ 24 + addrByte a (4 * k + 1) * 2 ^ 16 + addrByte a (4 * k + 2) * 2 ^ 8 + addrByte a (4 * k + 3)

/-- The bytes of an address register that an IPv4 address takes, `A[0]` to `A[3]` (R13). -/
def firstFour (a : Addr) : Vector Byte 4 := #v[a[0], a[1], a[2], a[3]]

/-- `STATUS` as a number: ERR in bit 0, ERRCODE in 7:4, EVT_PEND in bit 8, the rest 0 (R16). -/
def statusWord (st : Status) : Nat := st.err.toNat + st.errCode.toNat * 16 + st.evtPend.toNat * 256

/-- The code of an address family tag (R13). -/
def afCode : AF → Nat
  | .none => 0
  | .v4 => 1
  | .v6 => 2

/-- The code of a verdict (R24). -/
def verdictCode : Verdict → Nat
  | .absent => 0
  | .pending => 1
  | .opened => 2
  | .closed => 3
  | .filtered => 4

/-- The 28 selectors and what GETR reads through each, as numbers (R12). -/
def registerValues (s : State) : List (Nat × Nat) :=
  [(0x00, s.ctrl.toNat), (0x01, statusWord s.status), (0x02, s.errCmd.toNat), (0x03, afCode s.srcAf),
   (0x04, afCode s.dstAf), (0x05, s.srcPort.toNat), (0x06, s.dstPort.toNat), (0x07, s.txLen.toNat),
   (0x08, s.rxLen.toNat), (0x09, s.csAcc.toNat), (0x0A, s.csRes.toNat), (0x0B, s.pr.kind.toNat),
   (0x0C, s.pr.off.toNat), (0x0D, s.pr.ports.toNat), (0x0E, s.pr.flags.toNat), (0x0F, s.pr.icmp.toNat),
   (0x10, s.pr.eproto.toNat), (0x11, s.pr.eports.toNat), (0x12, s.res.toNat), (0x13, s.evt.toNat)] ++
  (List.range 4).map (fun k => (0x20 + k, addrWord s.srcAddr k)) ++
  (List.range 4).map (fun k => (0x24 + k, addrWord s.dstAddr k))

/-- Both address family tags are the family `v` (R130). -/
def familyIs (s : State) : IpVer → Prop
  | .v4 => s.srcAf = .v4 ∧ s.dstAf = .v4
  | .v6 => s.srcAf = .v6 ∧ s.dstAf = .v6

/-- The bytes a buffer holds (R25, R44). -/
def capacity : Buf → Nat
  | .rx => 2048
  | .tx => 64

/-- The reserved fields of each opcode's format, as `(hi, lo)` (R61); the 24 opcodes are those of R62. -/
def reservedFields : List (Nat × List (Nat × Nat)) :=
  [(0x00, [(23, 0)]), (0x01, [(22, 2)]), (0x02, [(22, 19)]), (0x03, [(23, 16)]), (0x04, [(23, 16)]), (0x05, [(23, 2)]),
   (0x06, [(23, 8)]), (0x07, [(23, 0)]), (0x08, [(23, 0)]), (0x10, [(22, 19)]), (0x11, [(22, 19), (7, 0)]),
   (0x12, [(23, 12)]), (0x20, []), (0x30, [(23, 1)]), (0x31, [(23, 1)]), (0x32, [(23, 0)]), (0x33, [(23, 0)]),
   (0x34, [(23, 1)]), (0x40, [(23, 2)]), (0x41, [(23, 2)]), (0x50, [(23, 20), (19, 17)]), (0x51, [(23, 20)]),
   (0x52, [(23, 20), (19, 17)]), (0x53, [(23, 0)])]

/-- Case (a) of R65: bits 31:24 of the word are none of the 24 opcodes. -/
def opcodeUnlisted (w : Word) : Prop := ∀ f ∈ reservedFields, f.1 ≠ w.toNat / 2 ^ 24

/-- Case (b) of R65: a listed opcode and a reserved field that is not zero. -/
def reservedBitSet (w : Word) : Prop :=
  ∃ f ∈ reservedFields, f.1 = w.toNat / 2 ^ 24 ∧ ∃ r ∈ f.2, w.toNat / 2 ^ r.2 % 2 ^ (r.1 + 1 - r.2) ≠ 0

/-- The code of the error a decoded command raises in a state, 0 if it raises none (R205). -/
def errorCause (s : State) : Instr → Nat
  | .setaf _ af => if af.toNat = 3 then 2 else 0
  | .getr sel => if (0x14 ≤ sel.toNat ∧ sel.toNat ≤ 0x1F) ∨ 0x28 ≤ sel.toNat then 2 else 0
  | .setv _ _ v => if v.toNat < 2 ∨ 4 < v.toNat then 2 else 0
  | .stb b off _ => if off ≥ capacity b then 3 else 0
  | .ldb b off => if off ≥ capacity b then 3 else 0
  | .setrxlen len => if len > 2048 then 3 else 0
  | .csum b off len => if off + len > capacity b then 3 else 0
  | .bip4 _ => if s.srcAf = .v4 ∧ s.dstAf = .v4 then 0 else 4
  | .bip6 _ => if s.srcAf = .v6 ∧ s.dstAf = .v6 then 0 else 4
  | .btcp => if (s.srcAf = .v4 ∧ s.dstAf = .v4) ∨ (s.srcAf = .v6 ∧ s.dstAf = .v6) then 0 else 4
  | .budp => if (s.srcAf = .v4 ∧ s.dstAf = .v4) ∨ (s.srcAf = .v6 ∧ s.dstAf = .v6) then 0 else 4
  | .build _ => if s.dstAf ≠ .none ∧ s.srcAf = s.dstAf then 0 else 4
  | .nop => 0
  | .setah _ _ _ => 0
  | .setsp _ => 0
  | .setdp _ => 0
  | .setctl _ => 0
  | .clrerr => 0
  | .ack => 0
  | .parse _ => 0
  | .classify _ => 0
  | .arm _ _ => 0
  | .getv _ _ => 0
  | .clrv => 0

/-- The components of the engine's state, as the write matrix names them (R10, R28). -/
inductive Component where
  | srcAddr | dstAddr | srcAf | dstAf | srcPort | dstPort | ctrl | err | errCode | errCmd | evtPend
  | txLen | rxLen | csAcc | csRes | pr | res | evt | txbuf | rxbuf | vt
deriving DecidableEq, Repr

/-- Component `c` is the same in two states; a buffer or the table through the read of each of its places. -/
def Component.same (s t : State) : Component → Prop
  | .srcAddr => t.srcAddr = s.srcAddr
  | .dstAddr => t.dstAddr = s.dstAddr
  | .srcAf => t.srcAf = s.srcAf
  | .dstAf => t.dstAf = s.dstAf
  | .srcPort => t.srcPort = s.srcPort
  | .dstPort => t.dstPort = s.dstPort
  | .ctrl => t.ctrl = s.ctrl
  | .err => t.status.err = s.status.err
  | .errCode => t.status.errCode = s.status.errCode
  | .errCmd => t.errCmd = s.errCmd
  | .evtPend => t.status.evtPend = s.status.evtPend
  | .txLen => t.txLen = s.txLen
  | .rxLen => t.rxLen = s.rxLen
  | .csAcc => t.csAcc = s.csAcc
  | .csRes => t.csRes = s.csRes
  | .pr => t.pr = s.pr
  | .res => t.res = s.res
  | .evt => t.evt = s.evt
  | .txbuf => ∀ off, t.readByte .tx off = s.readByte .tx off
  | .rxbuf => ∀ off, t.readByte .rx off = s.readByte .rx off
  | .vt => ∀ p port, t.verdict p port = s.verdict p port

/-- The row of the write matrix for a command that ends by `respond` (R28). -/
def writtenBy : Instr → List Component
  | .nop => []
  | .getr _ => []
  | .ldb _ _ => []
  | .getv _ _ => []
  | .setaf r _ => match r with | .src => [.srcAf] | .dst => [.dstAf]
  | .setah r _ _ => match r with | .src => [.srcAddr] | .dst => [.dstAddr]
  | .setsp _ => [.srcPort]
  | .setdp _ => [.dstPort]
  | .setctl _ => [.ctrl]
  | .clrerr => [.err, .errCode, .errCmd]
  | .ack => [.evtPend]
  | .stb b _ _ => match b with | .rx => [.rxbuf] | .tx => [.txbuf]
  | .setrxlen _ => [.rxLen]
  | .csum _ _ _ => [.csAcc, .csRes]
  | .bip4 _ => [.txbuf, .txLen]
  | .bip6 _ => [.txbuf, .txLen]
  | .btcp => [.txbuf, .txLen]
  | .budp => [.txbuf, .txLen]
  | .build _ => [.txbuf, .txLen]
  | .parse _ => [.pr]
  | .classify _ => [.pr, .res, .vt, .evt, .evtPend]
  | .arm _ _ => [.vt]
  | .setv _ _ _ => [.vt]
  | .clrv => [.vt, .evt, .evtPend]

/-- What a command that ends by `raise` writes: ERR, and ERRCODE and ERRCMD if ERR was 0 (R28). -/
def writtenByRaise (s : State) : List Component := if s.status.err then [.err] else [.err, .errCode, .errCmd]

/-- The fields of a RES or EVT word (R21). -/
def resPort (w : BitVec 24) : Half := w.extractLsb' 0 16
/-- Bit 16 of a RES or EVT word (R21). -/
def resProto (w : BitVec 24) : Proto := if w.getLsbD 16 then .udp else .tcp
/-- Bits 19:17 of a RES or EVT word (R21). -/
def resVerdict (w : BitVec 24) : Nat := (w.extractLsb' 17 3).toNat
/-- Bits 23:20 of a RES or EVT word (R21). -/
def resOutcome (w : BitVec 24) : Nat := (w.extractLsb' 20 4).toNat

/-- `RES` of an outcome and a candidate, as a number (R172). -/
def resNumber (outcome verdict proto port : Nat) : Nat := outcome * 2 ^ 20 + verdict * 2 ^ 17 + proto * 2 ^ 16 + port

/-- A value `RES` can hold: 0 after reset, a candidate's outcome 1 to 3 with verdict OPEN (a TCP one only) or CLOSED, or the
outcomes 4 and 5 alone (R21, R172). -/
def resLegal (w : BitVec 24) : Prop :=
  w = 0#24 ∨ (1 ≤ resOutcome w ∧ resOutcome w ≤ 3 ∧ (resVerdict w = 3 ∨ (resVerdict w = 2 ∧ resProto w = .tcp))) ∨
    w = 0x400000#24 ∨ w = 0x500000#24

/-- Values the seven parse result registers can hold together (R20). -/
structure PrLegal (pr : ParseRegs) : Prop where
  kindRange : (pr.kind.extractLsb' 0 3).toNat ≤ 4
  bit3 : pr.kind.getLsbD 3 = false
  bits76 : pr.kind.extractLsb' 6 2 = 0#2
  depthRange : (pr.kind.extractLsb' 8 2).toNat ≤ 2
  offRange : pr.off.toNat ≤ 60
  /-- PK_NONE is the reset value only: everything is 0. -/
  ofNone : pr.kind.extractLsb' 0 3 = 0#3 → pr = ⟨0, 0, 0, 0, 0, 0, 0⟩
  ofTcp : pr.kind.extractLsb' 0 3 = 1#3 → pr.kind.extractLsb' 8 2 = 0#2 ∧ pr.icmp = 0 ∧ pr.eproto = 0 ∧ pr.eports = 0
  ofIcmp : pr.kind.extractLsb' 0 3 = 2#3 ∨ pr.kind.extractLsb' 0 3 = 3#3 →
    pr.ports = 0 ∧ pr.flags = 0 ∧ (pr.kind.extractLsb' 8 2 = 0#2 → pr.eproto = 0) ∧
      (pr.kind.extractLsb' 8 2 ≠ 2#2 → pr.eports = 0)
  ofTrunc : pr.kind.extractLsb' 0 3 = 4#3 → pr.kind.extractLsb' 8 2 = 0#2 ∧ pr.off = 0 ∧ pr.ports = 0 ∧ pr.flags = 0 ∧
    pr.icmp = 0 ∧ pr.eproto = 0 ∧ pr.eports = 0

/-- What holds of every reachable state. -/
structure EngineInv (s : State) : Prop where
  /-- RXBUF is in its canonical form and holds 2048 bytes (R25, R40). -/
  rxbuf : s.rxbuf.wf ∧ ∀ c ∈ s.rxbuf, c.1 < 2048
  /-- TXBUF is in its canonical form and holds 64 bytes (R25, R40). -/
  txbuf : s.txbuf.wf ∧ ∀ c ∈ s.txbuf, c.1 < 64
  /-- VT is in its canonical form and holds 2 x 65536 entries (R23, R40). -/
  vt : s.vt.wf ∧ ∀ c ∈ s.vt, c.1 < 131072
  /-- TX_LEN is 0 or the length of a build result (R18). -/
  txLen : s.txLen.toNat ∈ [0, 8, 20, 28, 40, 48, 60]
  /-- RX_LEN is 0 to 2048 (R18). -/
  rxLen : s.rxLen.toNat ≤ 2048
  /-- While ERR is 0 the rest of the error record is 0 (R16, R17). -/
  errClear : s.status.err = false → s.status.errCode = 0#4 ∧ s.errCmd = 0#32
  /-- While ERR is 1 ERRCODE is one of the four codes (R205). -/
  errSet : s.status.err = true → 1 ≤ s.status.errCode.toNat ∧ s.status.errCode.toNat ≤ 4
  /-- CS_RES is the checksum of the sum in CS_ACC, which no command makes larger than 1024 words can (R19, R103). -/
  checksum : (s.csAcc = 0#32 ∧ s.csRes = 0#16) ∨
    (s.csAcc.toNat ≤ 0x03FFFC00 ∧ s.csRes.toNat = 0xFFFF - fold s.csAcc.toNat)
  /-- The parse result registers belong together (R20). -/
  pr : PrLegal s.pr
  /-- RES is a value R21 and R172 give. -/
  res : resLegal s.res
  /-- EVT is 0 or a copy of a RES whose outcome was OC_UPDATED (R22). -/
  evt : s.evt = 0#24 ∨ (resLegal s.evt ∧ resOutcome s.evt = 1)
  /-- A pending event is in EVT (R22). -/
  pending : s.status.evtPend = true → s.evt ≠ 0#24
  /-- Every event in EVT is also recorded in VT (R22). -/
  recorded : s.evt ≠ 0#24 → verdictCode (s.verdict (resProto s.evt) (resPort s.evt)) = resVerdict s.evt

/-- The verdicts that are never overwritten within a session (R24). -/
def terminal (v : Verdict) : Bool := v == .opened || v == .closed || v == .filtered

/-- The big-endian number at offset `i` of a buffer (R7, R41). -/
def half (m : Memory) (i : Nat) : Nat := (m.read i).toNat * 256 + (m.read (i + 1)).toNat

end Sys2Proof.Safety
end

