-- ==== Sys2Proof/Certificates/Slice0/Obligations.lean ====
section
/-! DEFINITION. The statements for the provers, each from the numbered rules of spec/ that its docstring names. A statement
about a command that completes is an equation for the whole next state, or gives that state and says of every component what it
holds: what is not named is unchanged. Buffers and the verdict table are compared through the reads of their places. The
response of a command (R70) is read from the model's own field `resp` (log 3), what the host presents from `input` (log 1). -/

open Sys2Proof Sys2Proof.Machine Sys2Proof.Safety

-- Decoding and encoding.

/-- Decoding the word of a well-formed command gives the command back: no operand bit is dropped, for every command and every
operand its fields can hold (R61, R71). -/
def Obligations.DecodeOfEncodeIsTheCommand : Prop :=
  ∀ i : Instr, i.wf = true → decode (encode i) = .ok i

/-- A word that decodes is the one word of its command, and the command is well formed; so the word that `raise` records from
the command is the word the host presented. The model's inference (log 8). -/
def Obligations.EncodeOfDecodeIsTheWord : Prop :=
  ∀ (w : Word) (i : Instr), decode w = .ok i → encode i = w ∧ i.wf = true

/-- R62 whole: 24 rows; a word matches a row exactly when it decodes to a command of that row; no word matches two rows. The
decoder is written from the formats of R61 and does not look at masks, so this compares two descriptions of the spec. -/
def Obligations.OpcodeMapIsTheDecoder : Prop :=
  opcodeMap.length = 24 ∧
  (∀ row ∈ opcodeMap, ∀ w : Word, row.covers w = true ↔ ∃ i, decode w = .ok i ∧ i.mnemonic = row.mnemonic) ∧
  opcodeMap.Pairwise (fun r q => ∀ w : Word, ¬(r.covers w = true ∧ q.covers w = true))

/-- A word that matches no row of the map raises ERR_ILLEGAL and does nothing else, whatever the state; it is such a word
exactly when its opcode is none of the 24 or a reserved bit of its format is set (R65, the reserved fields of R61). That the
decoder tells the two cases apart by a reason is the model's choice (log 16): the spec has one outcome for both. -/
def Obligations.IllegalWordRaisesErrIllegal : Prop :=
  (∀ (s : State) (w : Word) (rest : List HostEvent), s.input = .command w :: rest →
    (∀ row ∈ opcodeMap, row.covers w = false) → step s = .next (raised 1 w { s with input := rest })) ∧
  (∀ w : Word, (∀ row ∈ opcodeMap, row.covers w = false) ↔ ∃ e, decode w = .error e) ∧
  (∀ w : Word, decode w = .error .unknownOpcode ↔
    w.toNat / 2 ^ 24 ∉ [0x00, 0x01, 0x02, 0x03, 0x04, 0x05, 0x06, 0x07, 0x08, 0x10, 0x11, 0x12, 0x20, 0x30, 0x31, 0x32,
      0x33, 0x34, 0x40, 0x41, 0x50, 0x51, 0x52, 0x53]) ∧
  (∀ w : Word, (∀ row ∈ opcodeMap, row.covers w = false) ↔ opcodeUnlisted w ∨ reservedBitSet w) ∧
  (∀ w : Word, decode w = .error .reservedBit ↔ reservedBitSet w)

/-- Words the spec writes out, one of each family, decode to the commands it gives for them. -/
def Obligations.WordsOfTheSpecDecode : Prop :=
  decode 0x01800001#32 = .ok (.setaf .dst 1#2) ∧ decode 0x02810101#32 = .ok (.setah .dst 1 0x0101#16) ∧
  decode 0x05000002#32 = .ok (.setctl 2#2) ∧ decode 0x10000D12#32 = .ok (.stb .rx 13 0x12#8) ∧
  decode 0x2083F002#32 = .ok (.csum .tx 63 2) ∧ decode 0x30000001#32 = .ok (.bip4 .udp) ∧
  decode 0x33000000#32 = .ok .budp ∧ decode 0x41000002#32 = .ok (.classify .icmp4) ∧
  decode 0x5108270F#32 = .ok (.setv .tcp 9999#16 4#3)

-- The step, reset and the whole machine.

/-- A step takes the oldest event the host presents: a word that decodes runs as its command, and the step is exactly the
execution of that command in the state whose queue has lost the word; a reset pulse leaves the reset value of every component;
with nothing presented nothing changes. The queue is the model's own (log 1, log 2, log 4). -/
def Obligations.StepRunsThePresentedCommand : Prop :=
  (∀ (s : State) (w : Word) (i : Instr) (rest : List HostEvent), s.input = .command w :: rest → decode w = .ok i →
    i.wf = true ∧ step s = exec i { s with input := rest }) ∧
  (∀ (s : State) (rest : List HostEvent), s.input = .reset :: rest → step s = .next { State.reset with input := rest }) ∧
  (∀ s : State, s.input = [] → step s = .next s) ∧
  (∀ (s : State) (w : Word), step (s.withFetchWord 32 w.toNat) = runWord w s)

/-- R27: the reset value of every component, the buffers and the table through the reads of their places; irq is 0. -/
def Obligations.ResetValues : Prop :=
  (∀ i, i < 16 → addrByte State.reset.srcAddr i = 0 ∧ addrByte State.reset.dstAddr i = 0) ∧
  State.reset.srcAf = .none ∧ State.reset.dstAf = .none ∧ State.reset.srcPort = 0#16 ∧ State.reset.dstPort = 0#16 ∧
  State.reset.ctrl = 0#2 ∧ State.reset.status = ⟨false, 0#4, false⟩ ∧ State.reset.errCmd = 0#32 ∧
  State.reset.txLen = 0#7 ∧ State.reset.rxLen = 0#12 ∧ State.reset.csAcc = 0#32 ∧ State.reset.csRes = 0#16 ∧
  State.reset.pr = ⟨0, 0, 0, 0, 0, 0, 0⟩ ∧ State.reset.res = 0#24 ∧ State.reset.evt = 0#24 ∧
  (∀ b off, State.reset.readByte b off = 0#8) ∧ (∀ p port, State.reset.verdict p port = .absent) ∧
  State.reset.irq = false

/-- The state after reset meets the invariant. -/
def Obligations.ResetMeetsTheInvariant : Prop := EngineInv State.reset

/-- Every step from every state that meets the invariant gives a state that meets it, whatever the host presents. -/
def Obligations.StepKeepsTheInvariant : Prop :=
  ∀ s t : State, EngineInv s → step s = .next t → EngineInv t

/-- Every command word the host presents is answered, whatever the state (R8): the step gives a next state, takes exactly that
word from what the host presents (the model's own queue, log 1), and the response (R70) carries the error code the word and the
state call for, 0 where none does; data is 0 on an error. The causes are those of R205, with decoding first (R209). -/
def Obligations.EveryCommandIsAnsweredWithItsErrorCode : Prop :=
  ∀ (s : State) (w : Word) (rest : List HostEvent), s.input = .command w :: rest →
    ∃ t d, step s = .next t ∧ t.input = rest ∧ t.resp = some d ∧ (d.err ≠ 0#4 → d.data = 0#32) ∧
      ((∀ i, decode w = .ok i → d.err.toNat = errorCause s i) ∧ ((∃ e, decode w = .error e) → d.err.toNat = 1))

/-- R207: a command word whose response is an error leaves exactly the state of `raise`: the first error since the last CLRERR is
recorded with the word the host presented, ERR is 1, and nothing else of the engine changes. -/
def Obligations.RaiseWritesOnlyTheErrorRecord : Prop :=
  ∀ (s t : State) (w : Word) (rest : List HostEvent) (d : Response), s.input = .command w :: rest → step s = .next t →
    t.resp = some d → d.err ≠ 0#4 → t = raised d.err.toNat w { s with input := rest }

/-- R28, the write matrix: a command writes a component only if its row says so and only when it ends by `respond`; a command that
raises writes ERR, and ERRCODE and ERRCMD if ERR was 0; and inside a buffer, an address or the table only the places the row
names. No command touches what the host presents next (the model's own field). -/
def Obligations.WriteMatrix : Prop :=
  ∀ (i : Instr) (s t : State), exec i s = .next t →
    t.input = s.input ∧
    (∃ d, t.resp = some d ∧ (d.err = 0#4 → ∀ c, c ∉ writtenBy i → c.same s t) ∧
      (d.err ≠ 0#4 → ∀ c, c ∉ writtenByRaise s → c.same s t)) ∧
    (∀ r idx v, i = .setah r idx v → ∀ j, j ≠ 2 * idx.val → j ≠ 2 * idx.val + 1 →
      addrByte (t.addr r) j = addrByte (s.addr r) j) ∧
    (∀ b off v, i = .stb b off v → ∀ b' a, ¬(b' = b ∧ a = off) → t.readByte b' a = s.readByte b' a) ∧
    ((∃ p, i = .bip4 p ∨ i = .bip6 p ∨ i = .btcp ∨ i = .budp ∨ i = .build p) →
      ∀ a, t.txLen.toNat ≤ a → t.readByte .tx a = s.readByte .tx a) ∧
    (∀ ch, i = .classify ch → (resOutcome t.res ≠ 1 → ∀ c ∈ [Component.vt, .evt, .evtPend], c.same s t) ∧
      ∀ p n, ¬(p = resProto t.res ∧ n = resPort t.res) → t.verdict p n = s.verdict p n) ∧
    (∀ p n v, i = .arm p n ∨ i = .setv p n v → ∀ q m, ¬(q = p ∧ m = n) → t.verdict q m = s.verdict q m)

/-- R208: the error flag is sticky. Over any sequence of commands without CLRERR and without reset, ERR = 0 at the end means that
no command of the sequence raised: every response on the way has err = 0. -/
def Obligations.NoErrorAtTheEndMeansNoCommandRaised : Prop :=
  ∀ (n : Nat) (s t : State), n ≤ s.input.length →
    (∀ e ∈ s.input.take n, e ≠ .reset ∧ e ≠ .command 0x07000000#32) →
    Sys2Proof.core.run n s = .next t → t.status.err = false →
    ∀ k, k < n → ∃ (u : State) (d : Response), Sys2Proof.core.run (k + 1) s = .next u ∧ u.resp = some d ∧ d.err = 0#4

/-- R210 to R212 and R22: EVT_PEND is set by a CLASSIFY whose outcome is OC_UPDATED and by nothing else, cleared by ACK and CLRV
and by nothing else (but reset); EVT is written with it; irq is EVT_PEND and EVT_IE. -/
def Obligations.EventPendingAndIrq : Prop :=
  (∀ s : State, s.irq = (s.status.evtPend && s.ctrl.getLsbD 0)) ∧
  (∀ (i : Instr) (s t : State), exec i s = .next t →
    (t.status.evtPend, t.evt) = match i with
      | .ack => (false, s.evt)
      | .clrv => (false, 0#24)
      | .classify _ => if resOutcome t.res = 1 then (true, t.res) else (s.status.evtPend, s.evt)
      | _ => (s.status.evtPend, s.evt))

/-- A byte stored by STB is read by the very next command (R50): both steps complete, and the LDB answers the byte. -/
def Obligations.StoredByteIsReadByTheNextCommand : Prop :=
  ∀ (s : State) (b : Buf) (off : Nat) (data : Byte) (rest : List HostEvent),
    off < capacity b →
    s.input = .command (.ofNat 32 (0x10000000 + b.code * 2 ^ 23 + off * 2 ^ 8 + data.toNat)) ::
      .command (.ofNat 32 (0x11000000 + b.code * 2 ^ 23 + off * 2 ^ 8)) :: rest →
    ∃ t u, step s = .next t ∧ step t = .next u ∧ u.input = rest ∧ u.resp = okResp data.toNat

-- Context and control commands.

/-- NOP, SETSP, SETDP, SETCTL (R80, R83, R84, R85): the word of the rule decodes to the command, and the command writes its one
register with the operand as it stands, answers 0 and changes nothing else. -/
def Obligations.NopSetspSetdpSetctl : Prop :=
  (∀ s : State, decode 0x00000000#32 = .ok .nop ∧ exec .nop s = .next { s with resp := okResp 0 }) ∧
  (∀ (v : Half) (s : State), decode (.ofNat 32 (0x03000000 + v.toNat)) = .ok (.setsp v) ∧
    exec (.setsp v) s = .next { s with srcPort := v, resp := okResp 0 }) ∧
  (∀ (v : Half) (s : State), decode (.ofNat 32 (0x04000000 + v.toNat)) = .ok (.setdp v) ∧
    exec (.setdp v) s = .next { s with dstPort := v, resp := okResp 0 }) ∧
  (∀ (k : BitVec 2) (s : State), decode (.ofNat 32 (0x05000000 + k.toNat)) = .ok (.setctl k) ∧
    exec (.setctl k) s = .next { s with ctrl := k, resp := okResp 0 })

/-- SETAF (R81): the tag of the selected register becomes the family the code names; code 3 raises ERR_OPERAND. -/
def Obligations.SetafWritesTheTagOrRaises : Prop :=
  ∀ (r : AddrReg) (af : BitVec 2) (s : State),
    decode (.ofNat 32 (0x01000000 + r.code * 2 ^ 23 + af.toNat)) = .ok (.setaf r af) ∧
    (af = 3#2 → exec (.setaf r af) s = .next (raised 2 (.ofNat 32 (0x01000000 + r.code * 2 ^ 23 + af.toNat)) s)) ∧
    (∀ f, afCode f = af.toNat → exec (.setaf r af) s = .next { s with
      srcAf := if r = .src then f else s.srcAf
      dstAf := if r = .dst then f else s.dstAf
      resp := okResp 0 })

/-- SETAH (R82): bytes 2*idx and 2*idx+1 of the selected address take the high and the low byte of the operand; the other 14
bytes, the other address and both tags keep their values. -/
def Obligations.SetahWritesTwoBytes : Prop :=
  ∀ (r : AddrReg) (idx : Fin 8) (v : Half) (s : State),
    decode (.ofNat 32 (0x02000000 + r.code * 2 ^ 23 + idx.val * 2 ^ 16 + v.toNat)) = .ok (.setah r idx v) ∧
    ∃ t, exec (.setah r idx v) s = .next t ∧
      (∀ j, j < 16 → addrByte (t.addr r) j =
        if j = 2 * idx.val then v.toNat / 256 else if j = 2 * idx.val + 1 then v.toNat % 256 else addrByte (s.addr r) j) ∧
      (∀ q, q ≠ r → t.addr q = s.addr q) ∧
      t = { s with srcAddr := t.srcAddr, dstAddr := t.dstAddr, resp := okResp 0 }

/-- GETR (R86, R12): each of the 28 selectors answers its register zero-extended and changes nothing; every other selector
raises ERR_OPERAND. -/
def Obligations.GetrReadsTheSelectedRegister : Prop :=
  ∀ (sel : BitVec 8) (s : State),
    decode (.ofNat 32 (0x06000000 + sel.toNat)) = .ok (.getr sel) ∧
    (∀ v, (sel.toNat, v) ∈ registerValues s → exec (.getr sel) s = .next { s with resp := okResp v }) ∧
    ((∃ v, (sel.toNat, v) ∈ registerValues s) ↔ sel.toNat < 0x14 ∨ (0x20 ≤ sel.toNat ∧ sel.toNat < 0x28)) ∧
    ((0x14 ≤ sel.toNat ∧ sel.toNat ≤ 0x1F) ∨ 0x28 ≤ sel.toNat →
      exec (.getr sel) s = .next (raised 2 (.ofNat 32 (0x06000000 + sel.toNat)) s))

/-- CLRERR and ACK (R87, R88): CLRERR clears ERR, ERRCODE and ERRCMD, ACK clears EVT_PEND and so irq, and neither changes anything
else. -/
def Obligations.ClrerrAndAckClearTheirFlags : Prop :=
  (∀ s : State, decode 0x07000000#32 = .ok .clrerr ∧ exec .clrerr s =
    .next { s with status := ⟨false, 0#4, s.status.evtPend⟩, errCmd := 0#32, resp := okResp 0 }) ∧
  (∀ s : State, decode 0x08000000#32 = .ok .ack ∧ ∃ t, exec .ack s = .next t ∧ t.irq = false ∧
    t = { s with status := ⟨s.status.err, s.status.errCode, false⟩, resp := okResp 0 })

-- Buffer commands.

/-- STB (R89), for every offset its field holds: one byte of the selected buffer is written, every other byte of both buffers and everything else keeps its value;
an offset at or beyond the capacity raises ERR_RANGE. -/
def Obligations.StbStoresOneByte : Prop :=
  ∀ (b : Buf) (off : Nat) (data : Byte) (s : State), off < 2048 →
    decode (.ofNat 32 (0x10000000 + b.code * 2 ^ 23 + off * 2 ^ 8 + data.toNat)) = .ok (.stb b off data) ∧
    (off < capacity b → ∃ t, exec (.stb b off data) s = .next t ∧
      (∀ b' a, t.readByte b' a = if b' = b ∧ a = off then data else s.readByte b' a) ∧
      t = { s with txbuf := t.txbuf, rxbuf := t.rxbuf, resp := okResp 0 }) ∧
    (capacity b ≤ off → exec (.stb b off data) s =
      .next (raised 3 (.ofNat 32 (0x10000000 + b.code * 2 ^ 23 + off * 2 ^ 8 + data.toNat)) s))

/-- LDB (R90), for every offset its field holds: the byte at the offset is the response and nothing changes; an offset at or beyond the capacity raises
ERR_RANGE. -/
def Obligations.LdbAnswersTheByte : Prop :=
  ∀ (b : Buf) (off : Nat) (s : State), off < 2048 →
    decode (.ofNat 32 (0x11000000 + b.code * 2 ^ 23 + off * 2 ^ 8)) = .ok (.ldb b off) ∧
    (off < capacity b →
      exec (.ldb b off) s = .next { s with resp := okResp (s.readByte b off).toNat }) ∧
    (capacity b ≤ off → exec (.ldb b off) s =
      .next (raised 3 (.ofNat 32 (0x11000000 + b.code * 2 ^ 23 + off * 2 ^ 8)) s))

/-- SETRXLEN (R91), for every length its field holds: RX_LEN takes any length up to 2048, no buffer byte changes; a greater length raises ERR_RANGE. -/
def Obligations.SetrxlenDeclaresTheLength : Prop :=
  ∀ (len : Nat) (s : State), len < 4096 →
    decode (.ofNat 32 (0x12000000 + len)) = .ok (.setrxlen len) ∧
    (len ≤ 2048 → ∃ t, exec (.setrxlen len) s = .next t ∧ t.rxLen.toNat = len ∧
      t = { s with rxLen := t.rxLen, resp := okResp 0 }) ∧
    (2048 < len → exec (.setrxlen len) s = .next (raised 3 (.ofNat 32 (0x12000000 + len)) s))

-- The checksum unit.

/-- R101: the fold equation, its range, and that two steps are enough below 2^32. -/
def Obligations.FoldAddsTheHighBits : Prop :=
  ∀ s : Nat, (fold s = if s / 65536 = 0 then s else fold (s % 65536 + s / 65536)) ∧ fold s ≤ 0xFFFF ∧
    (65536 ≤ s → s % 65536 + s / 65536 < s) ∧
    (s < 2 ^ 32 → ∀ s', s' = s % 65536 + s / 65536 → s' % 65536 + s' / 65536 ≤ 0xFFFF)

/-- R107, all six laws of `fold`, `acc` and `csum`; the laws of `csum` for sequences of at most 131072 bytes, the ones it takes
(R103, U5). -/
def Obligations.ChecksumLaws : Prop :=
  (∀ s : Nat, fold s = 0 ↔ s = 0) ∧
  (∀ s : Nat, 0 < s → 1 ≤ fold s ∧ fold s ≤ 0xFFFF ∧ fold s % 0xFFFF = s % 0xFFFF) ∧
  (∀ a b : Nat, fold (a + b) = fold (fold a + b)) ∧
  (∀ s : List Byte, s.length ≤ 131072 → ((csum s = some 0xFFFF#16 ↔ ∀ w ∈ words s, w = 0) ∧
    (csum s = some 0x0000#16 ↔ 0 < acc s ∧ acc s % 0xFFFF = 0))) ∧
  (∀ s : List Byte, s.length + 1 ≤ 131072 → csum (s ++ [0x00#8]) = csum s) ∧
  (∀ s : List Byte, s.length + 2 ≤ 131072 → s.length % 2 = 0 → csum (s ++ [0x00#8, 0x00#8]) = csum s) ∧
  (∀ s t : List Byte, s.length ≤ 131072 → t.length ≤ 131072 → (words s).Perm (words t) → csum s = csum t) ∧
  (∀ (pre post : List Byte) (hi lo : Byte), pre.length % 2 = 0 → pre.length + 2 + post.length ≤ 131072 → hi ≠ lo →
    csum (pre ++ [hi, lo] ++ post) ≠ csum (pre ++ [lo, hi] ++ post))

/-- R108, the verification law, with a pseudo-header of even length in front (the empty one included): a field cleared,
summed, and filled with the checksum, the high byte first, makes the whole sum to 0x0000. The whole has at most 131072 bytes,
as `csum` asks (R103, U5). -/
def Obligations.StoredChecksumVerifies : Prop :=
  ∀ (ph B : List Byte) (o : Nat), ph.length % 2 = 0 → B.length % 2 = 0 → o % 2 = 0 → o + 1 < B.length →
    ph.length + B.length ≤ 131072 →
    ∀ B0, B0 = (B.set o 0x00#8).set (o + 1) 0x00#8 → ∃ c, csum (ph ++ B0) = some c ∧
      csum (ph ++ (B0.set o (.ofNat 8 (c.toNat / 256))).set (o + 1) (.ofNat 8 (c.toNat % 256))) = some 0x0000#16

/-- R102 and R104: the words of a sequence are its big-endian pairs, a trailing odd byte the high byte of a last word; the
checksum of at most 131072 bytes (R103, U5) is 0xFFFF minus the folded sum, which is its bitwise complement. -/
def Obligations.WordsAndChecksumOfASequence : Prop :=
  ∀ s : List Byte, (words s).length = (s.length + 1) / 2 ∧
    (∀ k, 2 * k + 1 < s.length → (words s).getD k 0 = (s.getD (2 * k) 0#8).toNat * 256 + (s.getD (2 * k + 1) 0#8).toNat) ∧
    (∀ k, s.length = 2 * k + 1 → (words s).getD k 0 = (s.getD (2 * k) 0#8).toNat * 256) ∧
    (s.length ≤ 131072 → ∃ c, csum s = some c ∧ c.toNat = 0xFFFF - fold (acc s) ∧ c = ~~~(BitVec.ofNat 16 (fold (acc s))))

/-- R103: the sum is exact, and for every sequence a command can form it is below 2^32, so a 32-bit accumulator that wraps holds
the same number; so it does up to the 131072 bytes of U5, and beyond them, exactly, `csum` refuses. -/
def Obligations.AccumulatorNeverOverflows : Prop :=
  ∀ s : List Byte, acc s = (words s).sum ∧ (s.length ≤ 2048 → acc s ≤ 0x03FFFC00) ∧
    (s.length ≤ 131072 → ((words s).foldl (fun (a : BitVec 32) w => a + .ofNat 32 w) 0#32).toNat = acc s) ∧
    (csum s = none ↔ 131072 < s.length)

/-- CSUM (R106), for every offset and length its fields hold: CS_ACC takes the exact sum of the region's words, CS_RES and the response its checksum, no byte and nothing else
changes; a region that passes the end of the buffer raises ERR_RANGE. -/
def Obligations.CsumSumsTheRegion : Prop :=
  ∀ (b : Buf) (off len : Nat) (s : State), off < 2048 → len < 4096 →
    decode (.ofNat 32 (0x20000000 + b.code * 2 ^ 23 + off * 2 ^ 12 + len)) = .ok (.csum b off len) ∧
    (off + len ≤ capacity b → ∃ t region, exec (.csum b off len) s = .next t ∧
      region = (List.range len).map (fun i => s.readByte b (off + i)) ∧
      t.csAcc.toNat = acc region ∧ t.csRes.toNat = 0xFFFF - fold (acc region) ∧
      t = { s with csAcc := t.csAcc, csRes := t.csRes, resp := okResp t.csRes.toNat }) ∧
    (capacity b < off + len → exec (.csum b off len) s =
      .next (raised 3 (.ofNat 32 (0x20000000 + b.code * 2 ^ 23 + off * 2 ^ 12 + len)) s))

-- The codecs and the builder.

/-- R117 and R119: the bytes of the IPv4 header, for every identification value, with the checksum of the header as it stands
with that field zero, and so a header that sums to 0x0000; the bytes of the IPv6 header. -/
def Obligations.IpHeaderBytes : Prop :=
  (∀ (ident : Half) (src dst : Vector Byte 4) (p : Proto) (h : Half → List Byte),
    (∀ c, h c = [0x45#8, 0x00#8, 0x00#8, if p = .tcp then 0x28#8 else 0x1C#8, .ofNat 8 (ident.toNat / 256),
      .ofNat 8 (ident.toNat % 256), 0x00#8, 0x00#8, 0x40#8, if p = .tcp then 0x06#8 else 0x11#8,
      .ofNat 8 (c.toNat / 256), .ofNat 8 (c.toNat % 256)] ++ src.toList ++ dst.toList) →
    ∃ c, csum (h 0#16) = some c ∧ ipv4Header ident src dst p = h c ∧ (ipv4Header ident src dst p).length = 20 ∧
      csum (ipv4Header ident src dst p) = some 0x0000#16) ∧
  (∀ (src dst : Vector Byte 16) (p : Proto),
    ipv6Header src dst p = [0x60#8, 0x00#8, 0x00#8, 0x00#8, 0x00#8, if p = .tcp then 0x14#8 else 0x08#8,
      if p = .tcp then 0x06#8 else 0x11#8, 0x40#8] ++ src.toList ++ dst.toList ∧ (ipv6Header src dst p).length = 40)

/-- R131 and R132: the bytes of the two pseudo-headers, 12 and 40 of them. -/
def Obligations.PseudoHeaderBytes : Prop :=
  (∀ (src dst : Vector Byte 4) (p : Proto), (pseudo4 src dst p).bytes.length = 12 ∧
    (pseudo4 src dst p).bytes = src.toList ++ dst.toList ++
    [0x00#8, if p = .tcp then 0x06#8 else 0x11#8, 0x00#8, if p = .tcp then 0x14#8 else 0x08#8]) ∧
  (∀ (src dst : Vector Byte 16) (p : Proto), (pseudo6 src dst p).bytes.length = 40 ∧
    (pseudo6 src dst p).bytes = src.toList ++ dst.toList ++
    [0x00#8, 0x00#8, 0x00#8, if p = .tcp then 0x14#8 else 0x08#8, 0x00#8, 0x00#8, 0x00#8,
      if p = .tcp then 0x06#8 else 0x11#8])

/-- R134, R136 and R137: the bytes of the TCP and UDP headers, with the checksum of the pseudo-header and the header with that
field zero, stored as it comes out (R140), and so a header that sums to 0x0000 behind its pseudo-header. -/
def Obligations.TransportHeaderBytes : Prop :=
  (∀ (ph : PseudoHeader) (sp dp : Half) (h : Half → List Byte),
    (∀ c, h c = [.ofNat 8 (sp.toNat / 256), .ofNat 8 (sp.toNat % 256), .ofNat 8 (dp.toNat / 256),
      .ofNat 8 (dp.toNat % 256), 0x00#8, 0x00#8, 0x00#8, 0x00#8, 0x00#8, 0x00#8, 0x00#8, 0x00#8, 0x50#8, 0x02#8, 0x04#8,
      0x00#8, .ofNat 8 (c.toNat / 256), .ofNat 8 (c.toNat % 256), 0x00#8, 0x00#8]) →
    ∃ c, csum (ph.bytes ++ h 0#16) = some c ∧ tcpHeader ph sp dp = h c ∧
      csum (ph.bytes ++ tcpHeader ph sp dp) = some 0x0000#16) ∧
  (∀ (ph : PseudoHeader) (sp dp : Half) (h : Half → List Byte),
    (∀ c, h c = [.ofNat 8 (sp.toNat / 256), .ofNat 8 (sp.toNat % 256), .ofNat 8 (dp.toNat / 256),
      .ofNat 8 (dp.toNat % 256), 0x00#8, 0x08#8, .ofNat 8 (c.toNat / 256), .ofNat 8 (c.toNat % 256)]) →
    ∃ c, csum (ph.bytes ++ h 0#16) = some c ∧ udpHeader ph sp dp = h c ∧
      csum (ph.bytes ++ udpHeader ph sp dp) = some 0x0000#16)

/-- BIP4 (R118): with both tags V4 the IPv4 header of the context, with the instance's IPV4_ID, is in TXBUF[0..19], TX_LEN and the
response are 20, every other byte and everything else keeps its value; otherwise ERR_AF. -/
def Obligations.Bip4BuildsTheHeader : Prop :=
  ∀ (p : Proto) (s : State),
    decode (.ofNat 32 (0x30000000 + p.code)) = .ok (.bip4 p) ∧
    (familyIs s .v4 → ∃ t, exec (.bip4 p) s = .next t ∧
      (∀ a, t.readByte .tx a = if a < 20 then
        (ipv4Header Config.ipv4Id (firstFour s.srcAddr) (firstFour s.dstAddr) p).getD a 0#8
        else s.readByte .tx a) ∧
      t = { s with txbuf := t.txbuf, txLen := 20#7, resp := okResp 20 }) ∧
    (¬familyIs s .v4 → exec (.bip4 p) s = .next (raised 4 (.ofNat 32 (0x30000000 + p.code)) s))

/-- BIP6 (R121): with both tags V6 the IPv6 header of the context is in TXBUF[0..39], TX_LEN and the response are 40, every other
byte and everything else keeps its value; otherwise ERR_AF. -/
def Obligations.Bip6BuildsTheHeader : Prop :=
  ∀ (p : Proto) (s : State),
    decode (.ofNat 32 (0x31000000 + p.code)) = .ok (.bip6 p) ∧
    (familyIs s .v6 → ∃ t, exec (.bip6 p) s = .next t ∧
      (∀ a, t.readByte .tx a = if a < 40 then (ipv6Header s.srcAddr s.dstAddr p).getD a 0#8
        else s.readByte .tx a) ∧
      t = { s with txbuf := t.txbuf, txLen := 40#7, resp := okResp 40 }) ∧
    (¬familyIs s .v6 → exec (.bip6 p) s = .next (raised 4 (.ofNat 32 (0x31000000 + p.code)) s))

/-- BTCP and BUDP (R135, R138, R130): the format is chosen by the two tags alone; the header is at TXBUF[0..], TX_LEN and the
response are its length, every other byte and everything else keeps its value; tags that do not agree raise ERR_AF. -/
def Obligations.BtcpBudpBuildTheHeader : Prop :=
  ∀ (s : State) (ph : IpVer → Proto → PseudoHeader),
    (∀ p, ph .v4 p = pseudo4 (firstFour s.srcAddr) (firstFour s.dstAddr) p ∧ ph .v6 p = pseudo6 s.srcAddr s.dstAddr p) →
    decode 0x32000000#32 = .ok .btcp ∧ decode 0x33000000#32 = .ok .budp ∧
    (∀ v, familyIs s v → ∃ t, exec .btcp s = .next t ∧
      (∀ a, t.readByte .tx a = if a < 20 then (tcpHeader (ph v .tcp) s.srcPort s.dstPort).getD a 0#8
        else s.readByte .tx a) ∧
      t = { s with txbuf := t.txbuf, txLen := 20#7, resp := okResp 20 }) ∧
    (∀ v, familyIs s v → ∃ t, exec .budp s = .next t ∧
      (∀ a, t.readByte .tx a = if a < 8 then (udpHeader (ph v .udp) s.srcPort s.dstPort).getD a 0#8
        else s.readByte .tx a) ∧
      t = { s with txbuf := t.txbuf, txLen := 8#7, resp := okResp 8 }) ∧
    ((∀ v, ¬familyIs s v) → exec .btcp s = .next (raised 4 0x32000000#32 s) ∧
      exec .budp s = .next (raised 4 0x33000000#32 s))

/-- BUILD (R146 and the table of R147): the four layouts, the IP header then at once the transport header, TX_LEN and the response
40, 28, 60 or 48, every other byte and everything else unchanged; tags that do not agree raise ERR_AF. -/
def Obligations.BuildLaysOutThePacket : Prop :=
  ∀ (p : Proto) (s : State) (src4 dst4 : Vector Byte 4) (src16 dst16 : Vector Byte 16) (pkt : IpVer → List Byte)
    (n : IpVer → Nat), src4 = firstFour s.srcAddr → dst4 = firstFour s.dstAddr → src16 = s.srcAddr → dst16 = s.dstAddr →
    pkt .v4 = ipv4Header Config.ipv4Id src4 dst4 p ++ (match p with
      | .tcp => tcpHeader (pseudo4 src4 dst4 .tcp) s.srcPort s.dstPort
      | .udp => udpHeader (pseudo4 src4 dst4 .udp) s.srcPort s.dstPort) →
    pkt .v6 = ipv6Header src16 dst16 p ++ (match p with
      | .tcp => tcpHeader (pseudo6 src16 dst16 .tcp) s.srcPort s.dstPort
      | .udp => udpHeader (pseudo6 src16 dst16 .udp) s.srcPort s.dstPort) →
    n .v4 = (if p = .tcp then 40 else 28) → n .v6 = (if p = .tcp then 60 else 48) →
    decode (.ofNat 32 (0x34000000 + p.code)) = .ok (.build p) ∧
    (∀ v, familyIs s v → (pkt v).length = n v ∧ ∃ t, exec (.build p) s = .next t ∧
      (∀ a, t.readByte .tx a = if a < n v then (pkt v).getD a 0#8 else s.readByte .tx a) ∧
      t = { s with txbuf := t.txbuf, txLen := .ofNat 7 (n v), resp := okResp (n v) }) ∧
    ((∀ v, ¬familyIs s v) → exec (.build p) s = .next (raised 4 (.ofNat 32 (0x34000000 + p.code)) s))

/-- The last sentence of R147: what BUILD writes equals what BIP4 or BIP6 would write at 0 followed by what BTCP or BUDP would
write at 0, for the same context. -/
def Obligations.BuildIsIpHeaderThenTransportHeader : Prop :=
  ∀ (p : Proto) (v : IpVer) (s : State), familyIs s v → ∃ t1 t2 t3,
    exec (match v with | .v4 => .bip4 p | .v6 => .bip6 p) s = .next t1 ∧
    exec (match p with | .tcp => .btcp | .udp => .budp) s = .next t2 ∧ exec (.build p) s = .next t3 ∧
    t3.txLen.toNat = t1.txLen.toNat + t2.txLen.toNat ∧
    (∀ a, a < t1.txLen.toNat → t3.readByte .tx a = t1.readByte .tx a) ∧
    (∀ a, a < t2.txLen.toNat → t3.readByte .tx (t1.txLen.toNat + a) = t2.readByte .tx a)

/-- R122 and R139: a build is a function of the six context registers alone. Two states that agree on them and on nothing else
give the same response and, if the build succeeds, the same packet bytes and TX_LEN. -/
def Obligations.BuildsDependOnTheContextAlone : Prop :=
  ∀ (p : Proto) (i : Instr) (s s' : State), i = .bip4 p ∨ i = .bip6 p ∨ i = .btcp ∨ i = .budp ∨ i = .build p →
    s'.srcAddr = s.srcAddr → s'.dstAddr = s.dstAddr → s'.srcAf = s.srcAf → s'.dstAf = s.dstAf →
    s'.srcPort = s.srcPort → s'.dstPort = s.dstPort → ∃ t t', exec i s = .next t ∧ exec i s' = .next t' ∧
      t'.resp = t.resp ∧ (errorCause s i = 0 → t'.txLen = t.txLen ∧
        ∀ a, a < t.txLen.toNat → t'.readByte .tx a = t.readByte .tx a)

-- The parser and the classifier.

/-- R159, R160 and R161: on TCP4 the header is at 0 if bytes 2 and 3 are the session source port, else behind a header of (low
nibble of byte 0) x 4 bytes; on TCP6 always at 0; a datagram without the bytes through the flags byte is truncated. -/
def Obligations.TcpHeaderIsLocatedAndRead : Prop :=
  ∀ (ch : Channel) (rx : Memory) (L : Nat) (sp : Half) (iphdr : Bool) (off : Nat),
    (ch = .tcp4 ∧ off = (if half rx 2 = sp.toNat then 0 else (rx.read 0).toNat % 16 * 4)) ∨ (ch = .tcp6 ∧ off = 0) →
    (L < off + 14 → parse ch rx L sp iphdr = .trunc) ∧
    (off + 14 ≤ L → ∃ sport dport flags, parse ch rx L sp iphdr = .tcp off sport dport flags ∧
      sport.toNat = half rx off ∧ dport.toNat = half rx (off + 2) ∧ flags = rx.read (off + 13))

/-- R163: the ICMPv4 parse, behind the outer header if CTRL.ICMP4_IPHDR says there is one. -/
def Obligations.Icmp4ErrorIsParsed : Prop :=
  ∀ (rx : Memory) (L : Nat) (sp : Half) (iphdr : Bool) (base e t : Nat),
    base = (if iphdr = true then (rx.read 0).toNat % 16 * 4 else 0) → e = base + 8 → t = e + (rx.read e).toNat % 16 * 4 →
    (L < base + 2 → parse .icmp4 rx L sp iphdr = .trunc) ∧
    (base + 2 ≤ L → rx.read base ≠ 3#8 ∨ rx.read (base + 1) ≠ 3#8 →
      parse .icmp4 rx L sp iphdr = .icmp .v4 base (rx.read base) (rx.read (base + 1)) 0 0#8 0#16 0#16) ∧
    (base + 2 ≤ L → rx.read base = 3#8 → rx.read (base + 1) = 3#8 →
      (L < e + 10 → parse .icmp4 rx L sp iphdr = .trunc) ∧
      (e + 10 ≤ L → rx.read (e + 9) ≠ 17#8 →
        parse .icmp4 rx L sp iphdr = .icmp .v4 base 3#8 3#8 1 (rx.read (e + 9)) 0#16 0#16) ∧
      (e + 10 ≤ L → rx.read (e + 9) = 17#8 →
        (L < t + 4 → parse .icmp4 rx L sp iphdr = .trunc) ∧
        (t + 4 ≤ L → ∃ es ed, parse .icmp4 rx L sp iphdr = .icmp .v4 base 3#8 3#8 2 17#8 es ed ∧
          es.toNat = half rx t ∧ ed.toNat = half rx (t + 2))))

/-- R164: the ICMPv6 parse, the embedded IPv6 header a fixed 40 bytes. -/
def Obligations.Icmp6ErrorIsParsed : Prop :=
  ∀ (rx : Memory) (L : Nat) (sp : Half) (iphdr : Bool),
    (L < 2 → parse .icmp6 rx L sp iphdr = .trunc) ∧
    (2 ≤ L → rx.read 0 ≠ 1#8 ∨ rx.read 1 ≠ 4#8 →
      parse .icmp6 rx L sp iphdr = .icmp .v6 0 (rx.read 0) (rx.read 1) 0 0#8 0#16 0#16) ∧
    (2 ≤ L → rx.read 0 = 1#8 → rx.read 1 = 4#8 →
      (L < 15 → parse .icmp6 rx L sp iphdr = .trunc) ∧
      (15 ≤ L → rx.read 14 ≠ 17#8 → parse .icmp6 rx L sp iphdr = .icmp .v6 0 1#8 4#8 1 (rx.read 14) 0#16 0#16) ∧
      (15 ≤ L → rx.read 14 = 17#8 →
        (L < 52 → parse .icmp6 rx L sp iphdr = .trunc) ∧
        (52 ≤ L → ∃ es ed, parse .icmp6 rx L sp iphdr = .icmp .v6 0 1#8 4#8 2 17#8 es ed ∧
          es.toNat = half rx 48 ∧ ed.toNat = half rx 50)))

/-- R18 and R158: PARSE and CLASSIFY never read a byte at or beyond RX_LEN. Two states that differ only in such bytes give the same
response and next states that differ only in them. -/
def Obligations.ParserReadsOnlyTheDatagram : Prop :=
  ∀ (ch : Channel) (i : Instr) (s : State) (m : Memory), i = .parse ch ∨ i = .classify ch →
    (∀ k, k < s.rxLen.toNat → m.read k = s.rxbuf.read k) →
    ∃ t, exec i s = .next t ∧ exec i { s with rxbuf := m } = .next { t with rxbuf := m }

/-- PARSE (R170, with the table of R167): the seven registers from the parse of the datagram in RXBUF, the new PR_KIND as the
response, and nothing else changes. -/
def Obligations.ParseWritesTheResultRegisters : Prop :=
  ∀ (ch : Channel) (s : State), decode (.ofNat 32 (0x40000000 + ch.code)) = .ok (.parse ch) ∧
    ∃ t, exec (.parse ch) s = .next t ∧ t = { s with pr := t.pr, resp := okResp t.pr.kind.toNat } ∧
      (t.pr.kind.toNat, t.pr.off.toNat, t.pr.ports.toNat, t.pr.flags.toNat, t.pr.icmp.toNat, t.pr.eproto.toNat,
        t.pr.eports.toNat) =
      match parse ch s.rxbuf s.rxLen.toNat s.srcPort (s.ctrl.getLsbD 1) with
      | .trunc => (4 + ch.code * 16, 0, 0, 0, 0, 0, 0)
      | .tcp off sport dport flags =>
        (1 + ch.code * 16, off, sport.toNat * 65536 + dport.toNat, flags.toNat, 0, 0, 0)
      | .icmp ver base type code depth eproto esport edport =>
        ((match ver with | .v4 => 2 | .v6 => 3) + ch.code * 16 + depth * 256, base, 0, 0, type.toNat * 256 + code.toNat,
          eproto.toNat, esport.toNat * 65536 + edport.toNat)

/-- R168: the candidate of every parse result; only OPEN and CLOSED can come of a datagram. -/
def Obligations.CandidateOfAParseResult : Prop :=
  (∀ (off : Nat) (sport dport : Half) (flags : Byte) (sp : Half), candidate (.tcp off sport dport flags) sp =
    if dport = sp ∧ flags = 0x12#8 then some ⟨sport, .tcp, .opened⟩
    else if dport = sp ∧ (flags = 0x04#8 ∨ flags = 0x14#8) then some ⟨sport, .tcp, .closed⟩ else none) ∧
  (∀ (ver : IpVer) (base : Nat) (type code : Byte) (es ed sp : Half),
    candidate (.icmp ver base type code 2 17#8 es ed) sp = some ⟨ed, .udp, .closed⟩) ∧
  (∀ (ver : IpVer) (base : Nat) (type code : Byte) (depth : Nat) (ep : Byte) (es ed sp : Half), depth = 0 ∨ depth = 1 →
    candidate (.icmp ver base type code depth ep es ed) sp = none) ∧
  (∀ sp : Half, candidate .trunc sp = none) ∧
  (∀ (r : Parsed) (sp : Half) (c : Candidate), candidate r sp = some c → c.verdict = .opened ∨ c.verdict = .closed)

/-- CLASSIFY without a candidate (R173, R172): the parse result registers as PARSE writes them, RES and the response OC_PARSE_ERR or
OC_IGNORED, and nothing else changes: the table, EVT and EVT_PEND included. -/
def Obligations.ClassifyWithoutCandidate : Prop :=
  ∀ (ch : Channel) (s : State) (r : Parsed) (n : Nat),
    r = parse ch s.rxbuf s.rxLen.toNat s.srcPort (s.ctrl.getLsbD 1) → candidate r s.srcPort = none →
    n = resNumber (if r = .trunc then 5 else 4) 0 0 0 →
    decode (.ofNat 32 (0x41000000 + ch.code)) = .ok (.classify ch) ∧
    ∃ t u, exec (.classify ch) s = .next t ∧ exec (.parse ch) s = .next u ∧
      t = { s with pr := u.pr, res := .ofNat 24 n, resp := okResp n }

/-- CLASSIFY with a candidate (R173, R169, R172): a PENDING entry takes the candidate's verdict, EVT takes RES and EVT_PEND is set;
an ABSENT entry and a terminal one are left alone; every other entry and everything else keeps its value. -/
def Obligations.ClassifyWithCandidate : Prop :=
  ∀ (ch : Channel) (s : State) (c : Candidate) (o n : Nat),
    candidate (parse ch s.rxbuf s.rxLen.toNat s.srcPort (s.ctrl.getLsbD 1)) s.srcPort = some c →
    o = (match s.verdict c.proto c.port with | .pending => 1 | .absent => 3 | _ => 2) →
    n = resNumber o (verdictCode c.verdict) c.proto.code c.port.toNat →
    ∃ t u, exec (.classify ch) s = .next t ∧ exec (.parse ch) s = .next u ∧
      (∀ q m, t.verdict q m = if q = c.proto ∧ m = c.port ∧ s.verdict q m = .pending then c.verdict else s.verdict q m) ∧
      t = { s with
        pr := u.pr
        res := .ofNat 24 n
        evt := if o = 1 then .ofNat 24 n else s.evt
        status := if o = 1 then ⟨s.status.err, s.status.errCode, true⟩ else s.status
        vt := t.vt
        resp := okResp n }

/-- R174: running CLASSIFY twice in a row leaves VT as running it once does, and no CLASSIFY changes an entry that is not
PENDING. -/
def Obligations.ClassifyIsIdempotentOnTheTable : Prop :=
  ∀ (ch : Channel) (s : State), ∃ t u, exec (.classify ch) s = .next t ∧ exec (.classify ch) t = .next u ∧
    (∀ p n, u.verdict p n = t.verdict p n) ∧
    (∀ p n, s.verdict p n ≠ .pending → t.verdict p n = s.verdict p n)

/-- The examples D00 gives for the classifier (R174), for every port: a SYN+ACK to the session source port opens the pending TCP
port it came from, an RST closes it, and an ICMPv4 port unreachable around a UDP probe closes the pending UDP port. -/
def Obligations.AnswersResolvePendingPorts : Prop :=
  (∀ (ch : Channel) (s : State) (port : Half) (v : Verdict), ch = .tcp4 ∨ ch = .tcp6 → 14 ≤ s.rxLen.toNat →
    half s.rxbuf 0 = port.toNat → half s.rxbuf 2 = s.srcPort.toNat → s.verdict .tcp port = .pending →
    (s.rxbuf.read 13 = 0x12#8 ∧ v = .opened) ∨ ((s.rxbuf.read 13 = 0x04#8 ∨ s.rxbuf.read 13 = 0x14#8) ∧ v = .closed) →
    ∃ t, exec (.classify ch) s = .next t ∧ t.verdict .tcp port = v ∧ t.status.evtPend = true) ∧
  (∀ (s : State) (port : Half) (t0 : Nat), s.ctrl.getLsbD 1 = false → t0 = 8 + (s.rxbuf.read 8).toNat % 16 * 4 →
    18 ≤ s.rxLen.toNat → t0 + 4 ≤ s.rxLen.toNat → s.rxbuf.read 0 = 3#8 → s.rxbuf.read 1 = 3#8 →
    s.rxbuf.read 17 = 17#8 → half s.rxbuf (t0 + 2) = port.toNat → s.verdict .udp port = .pending →
    ∃ t, exec (.classify .icmp4) s = .next t ∧ t.verdict .udp port = .closed ∧ t.status.evtPend = true)

-- The verdict table.

/-- ARM (R190): an ABSENT entry becomes PENDING, any other keeps its verdict; the response is the code after the command. -/
def Obligations.ArmMakesAbsentPending : Prop :=
  ∀ (p : Proto) (port : Half) (s : State),
    decode (.ofNat 32 (0x50000000 + p.code * 2 ^ 16 + port.toNat)) = .ok (.arm p port) ∧
    ∃ t, exec (.arm p port) s = .next t ∧
      (∀ q m, t.verdict q m = if q = p ∧ m = port ∧ s.verdict q m = .absent then .pending else s.verdict q m) ∧
      t = { s with vt := t.vt, resp := okResp (verdictCode (t.verdict p port)) }

/-- SETV (R191): a PENDING entry takes the terminal verdict the operand names, any other keeps its own; the response is the code
after the command; an operand outside 2..4 raises ERR_OPERAND. -/
def Obligations.SetvResolvesPending : Prop :=
  ∀ (p : Proto) (port : Half) (v : BitVec 3) (s : State) (w : Word),
    w = .ofNat 32 (0x51000000 + v.toNat * 2 ^ 17 + p.code * 2 ^ 16 + port.toNat) →
    decode w = .ok (.setv p port v) ∧
    (∀ x : Verdict, verdictCode x = v.toNat → 2 ≤ v.toNat → ∃ t, exec (.setv p port v) s = .next t ∧
      (∀ q m, t.verdict q m = if q = p ∧ m = port ∧ s.verdict q m = .pending then x else s.verdict q m) ∧
      t = { s with vt := t.vt, resp := okResp (verdictCode (t.verdict p port)) }) ∧
    (v.toNat < 2 ∨ 4 < v.toNat → exec (.setv p port v) s = .next (raised 2 w s))

/-- GETV and CLRV (R192, R193): GETV answers the entry and changes nothing; CLRV makes every entry ABSENT, clears EVT and EVT_PEND
and changes nothing else. -/
def Obligations.GetvReadsAndClrvClears : Prop :=
  (∀ (p : Proto) (port : Half) (s : State),
    decode (.ofNat 32 (0x52000000 + p.code * 2 ^ 16 + port.toNat)) = .ok (.getv p port) ∧
    exec (.getv p port) s = .next { s with resp := okResp (verdictCode (s.verdict p port)) }) ∧
  (∀ s : State, decode 0x53000000#32 = .ok .clrv ∧ ∃ t, exec .clrv s = .next t ∧ (∀ q m, t.verdict q m = .absent) ∧
    t = { s with vt := t.vt, evt := 0#24, status := ⟨s.status.err, s.status.errCode, false⟩, resp := okResp 0 })

/-- R195, the whole table: what every command does to every entry; CLRV and reset make every entry ABSENT; every command but CLRV
moves an entry only along ABSENT, PENDING, terminal; FILTERED is reached by SETV alone. -/
def Obligations.EveryTransitionOfATableEntry : Prop :=
  (∀ (i : Instr) (s t : State) (p : Proto) (n : Half), exec i s = .next t → t.verdict p n = match i with
    | .arm q m => if q = p ∧ m = n ∧ s.verdict p n = .absent then .pending else s.verdict p n
    | .setv q m v => if q = p ∧ m = n ∧ s.verdict p n = .pending then
        (match v.toNat with | 2 => .opened | 3 => .closed | 4 => .filtered | _ => s.verdict p n) else s.verdict p n
    | .classify ch =>
      (match candidate (parse ch s.rxbuf s.rxLen.toNat s.srcPort (s.ctrl.getLsbD 1)) s.srcPort with
      | some c => if c.proto = p ∧ c.port = n ∧ s.verdict p n = .pending then c.verdict else s.verdict p n
      | none => s.verdict p n)
    | .clrv => .absent
    | _ => s.verdict p n) ∧
  (∀ (s t : State) (rest : List HostEvent) (p : Proto) (n : Half), s.input = .reset :: rest → step s = .next t →
    t.verdict p n = .absent) ∧
  (∀ (i : Instr) (s t : State) (p : Proto) (n : Half), exec i s = .next t → i ≠ .clrv →
    t.verdict p n = s.verdict p n ∨ (s.verdict p n = .absent ∧ t.verdict p n = .pending) ∨
      (s.verdict p n = .pending ∧ terminal (t.verdict p n) = true)) ∧
  (∀ (i : Instr) (s t : State) (p : Proto) (n : Half), exec i s = .next t → t.verdict p n = .filtered →
    s.verdict p n = .filtered ∨ ∃ v, i = .setv p n v)

/-- Between two CLRV commands (and without reset) every entry moves only along ABSENT, PENDING, terminal, whatever the host
presents; a terminal verdict is never overwritten (R195, R24). -/
def Obligations.VerdictsMoveOnlyForward : Prop :=
  ∀ (s t : State) (p : Proto) (n : Half), step s = .next t →
    (∀ rest, s.input ≠ .reset :: rest ∧ s.input ≠ .command 0x53000000#32 :: rest) →
    t.verdict p n = s.verdict p n ∨ (s.verdict p n = .absent ∧ t.verdict p n = .pending) ∨
      (s.verdict p n = .pending ∧ terminal (t.verdict p n) = true)

-- Operands that no field holds.

/-- A command that is not well formed, so that no word decodes to it, raises ERR_RANGE and writes nothing but the error record, of
every form but one: CSUM of no byte at offset 2048 of RXBUF, where off + len is the capacity, completes. This is the model's
choice (log 19): the range checks of R89, R90, R91 and R106 are applied to the numbers as they stand. -/
def Obligations.OperandsThatNoFieldHolds : Prop :=
  (∀ (i : Instr) (s : State), i.wf = false → i ≠ .csum .rx 2048 0 → exec i s = .next (raised 3 (encode i) s)) ∧
  (Instr.csum .rx 2048 0).wf = false ∧
  (∀ s : State, exec (.csum .rx 2048 0) s = .next { s with csAcc := 0#32, csRes := 0xFFFF#16, resp := okResp 0xFFFF })
end

