-- ==== Sys2Proof/Laws/State.lean ====
section
/-! SUPPORT. What each named update of the state leaves and writes, one lemma per field, true by unfolding. -/

namespace Sys2Proof.Machine

@[simp] theorem State.answer_srcAddr (s : State) (d : Response) : (s.answer d).srcAddr = s.srcAddr := rfl
@[simp] theorem State.answer_dstAddr (s : State) (d : Response) : (s.answer d).dstAddr = s.dstAddr := rfl
@[simp] theorem State.answer_srcAf (s : State) (d : Response) : (s.answer d).srcAf = s.srcAf := rfl
@[simp] theorem State.answer_dstAf (s : State) (d : Response) : (s.answer d).dstAf = s.dstAf := rfl
@[simp] theorem State.answer_srcPort (s : State) (d : Response) : (s.answer d).srcPort = s.srcPort := rfl
@[simp] theorem State.answer_dstPort (s : State) (d : Response) : (s.answer d).dstPort = s.dstPort := rfl
@[simp] theorem State.answer_ctrl (s : State) (d : Response) : (s.answer d).ctrl = s.ctrl := rfl
@[simp] theorem State.answer_status (s : State) (d : Response) : (s.answer d).status = s.status := rfl
@[simp] theorem State.answer_errCmd (s : State) (d : Response) : (s.answer d).errCmd = s.errCmd := rfl
@[simp] theorem State.answer_txLen (s : State) (d : Response) : (s.answer d).txLen = s.txLen := rfl
@[simp] theorem State.answer_rxLen (s : State) (d : Response) : (s.answer d).rxLen = s.rxLen := rfl
@[simp] theorem State.answer_csAcc (s : State) (d : Response) : (s.answer d).csAcc = s.csAcc := rfl
@[simp] theorem State.answer_csRes (s : State) (d : Response) : (s.answer d).csRes = s.csRes := rfl
@[simp] theorem State.answer_pr (s : State) (d : Response) : (s.answer d).pr = s.pr := rfl
@[simp] theorem State.answer_res (s : State) (d : Response) : (s.answer d).res = s.res := rfl
@[simp] theorem State.answer_evt (s : State) (d : Response) : (s.answer d).evt = s.evt := rfl
@[simp] theorem State.answer_txbuf (s : State) (d : Response) : (s.answer d).txbuf = s.txbuf := rfl
@[simp] theorem State.answer_rxbuf (s : State) (d : Response) : (s.answer d).rxbuf = s.rxbuf := rfl
@[simp] theorem State.answer_vt (s : State) (d : Response) : (s.answer d).vt = s.vt := rfl
@[simp] theorem State.answer_input (s : State) (d : Response) : (s.answer d).input = s.input := rfl
@[simp] theorem State.answer_resp (s : State) (d : Response) : (s.answer d).resp = some d := rfl

@[simp] theorem State.recordError_srcAddr (s : State) (e : CmdError) (w : Word) : (s.recordError e w).srcAddr = s.srcAddr := rfl
@[simp] theorem State.recordError_dstAddr (s : State) (e : CmdError) (w : Word) : (s.recordError e w).dstAddr = s.dstAddr := rfl
@[simp] theorem State.recordError_srcAf (s : State) (e : CmdError) (w : Word) : (s.recordError e w).srcAf = s.srcAf := rfl
@[simp] theorem State.recordError_dstAf (s : State) (e : CmdError) (w : Word) : (s.recordError e w).dstAf = s.dstAf := rfl
@[simp] theorem State.recordError_srcPort (s : State) (e : CmdError) (w : Word) : (s.recordError e w).srcPort = s.srcPort := rfl
@[simp] theorem State.recordError_dstPort (s : State) (e : CmdError) (w : Word) : (s.recordError e w).dstPort = s.dstPort := rfl
@[simp] theorem State.recordError_ctrl (s : State) (e : CmdError) (w : Word) : (s.recordError e w).ctrl = s.ctrl := rfl
@[simp] theorem State.recordError_status (s : State) (e : CmdError) (w : Word) : (s.recordError e w).status = s.status.recordError e := rfl
@[simp] theorem State.recordError_errCmd (s : State) (e : CmdError) (w : Word) : (s.recordError e w).errCmd = if s.status.err then s.errCmd else w := rfl
@[simp] theorem State.recordError_txLen (s : State) (e : CmdError) (w : Word) : (s.recordError e w).txLen = s.txLen := rfl
@[simp] theorem State.recordError_rxLen (s : State) (e : CmdError) (w : Word) : (s.recordError e w).rxLen = s.rxLen := rfl
@[simp] theorem State.recordError_csAcc (s : State) (e : CmdError) (w : Word) : (s.recordError e w).csAcc = s.csAcc := rfl
@[simp] theorem State.recordError_csRes (s : State) (e : CmdError) (w : Word) : (s.recordError e w).csRes = s.csRes := rfl
@[simp] theorem State.recordError_pr (s : State) (e : CmdError) (w : Word) : (s.recordError e w).pr = s.pr := rfl
@[simp] theorem State.recordError_res (s : State) (e : CmdError) (w : Word) : (s.recordError e w).res = s.res := rfl
@[simp] theorem State.recordError_evt (s : State) (e : CmdError) (w : Word) : (s.recordError e w).evt = s.evt := rfl
@[simp] theorem State.recordError_txbuf (s : State) (e : CmdError) (w : Word) : (s.recordError e w).txbuf = s.txbuf := rfl
@[simp] theorem State.recordError_rxbuf (s : State) (e : CmdError) (w : Word) : (s.recordError e w).rxbuf = s.rxbuf := rfl
@[simp] theorem State.recordError_vt (s : State) (e : CmdError) (w : Word) : (s.recordError e w).vt = s.vt := rfl
@[simp] theorem State.recordError_input (s : State) (e : CmdError) (w : Word) : (s.recordError e w).input = s.input := rfl
@[simp] theorem State.recordError_resp (s : State) (e : CmdError) (w : Word) : (s.recordError e w).resp = s.resp := rfl

@[simp] theorem State.clearErrorRecord_srcAddr (s : State) : (s.clearErrorRecord).srcAddr = s.srcAddr := rfl
@[simp] theorem State.clearErrorRecord_dstAddr (s : State) : (s.clearErrorRecord).dstAddr = s.dstAddr := rfl
@[simp] theorem State.clearErrorRecord_srcAf (s : State) : (s.clearErrorRecord).srcAf = s.srcAf := rfl
@[simp] theorem State.clearErrorRecord_dstAf (s : State) : (s.clearErrorRecord).dstAf = s.dstAf := rfl
@[simp] theorem State.clearErrorRecord_srcPort (s : State) : (s.clearErrorRecord).srcPort = s.srcPort := rfl
@[simp] theorem State.clearErrorRecord_dstPort (s : State) : (s.clearErrorRecord).dstPort = s.dstPort := rfl
@[simp] theorem State.clearErrorRecord_ctrl (s : State) : (s.clearErrorRecord).ctrl = s.ctrl := rfl
@[simp] theorem State.clearErrorRecord_status (s : State) : (s.clearErrorRecord).status = s.status.clearError := rfl
@[simp] theorem State.clearErrorRecord_errCmd (s : State) : (s.clearErrorRecord).errCmd = 0#32 := rfl
@[simp] theorem State.clearErrorRecord_txLen (s : State) : (s.clearErrorRecord).txLen = s.txLen := rfl
@[simp] theorem State.clearErrorRecord_rxLen (s : State) : (s.clearErrorRecord).rxLen = s.rxLen := rfl
@[simp] theorem State.clearErrorRecord_csAcc (s : State) : (s.clearErrorRecord).csAcc = s.csAcc := rfl
@[simp] theorem State.clearErrorRecord_csRes (s : State) : (s.clearErrorRecord).csRes = s.csRes := rfl
@[simp] theorem State.clearErrorRecord_pr (s : State) : (s.clearErrorRecord).pr = s.pr := rfl
@[simp] theorem State.clearErrorRecord_res (s : State) : (s.clearErrorRecord).res = s.res := rfl
@[simp] theorem State.clearErrorRecord_evt (s : State) : (s.clearErrorRecord).evt = s.evt := rfl
@[simp] theorem State.clearErrorRecord_txbuf (s : State) : (s.clearErrorRecord).txbuf = s.txbuf := rfl
@[simp] theorem State.clearErrorRecord_rxbuf (s : State) : (s.clearErrorRecord).rxbuf = s.rxbuf := rfl
@[simp] theorem State.clearErrorRecord_vt (s : State) : (s.clearErrorRecord).vt = s.vt := rfl
@[simp] theorem State.clearErrorRecord_input (s : State) : (s.clearErrorRecord).input = s.input := rfl
@[simp] theorem State.clearErrorRecord_resp (s : State) : (s.clearErrorRecord).resp = s.resp := rfl

@[simp] theorem State.setBuf_srcAddr (s : State) (b : Buf) (m : Memory) : (s.setBuf b m).srcAddr = s.srcAddr := by cases b <;> rfl
@[simp] theorem State.setBuf_dstAddr (s : State) (b : Buf) (m : Memory) : (s.setBuf b m).dstAddr = s.dstAddr := by cases b <;> rfl
@[simp] theorem State.setBuf_srcAf (s : State) (b : Buf) (m : Memory) : (s.setBuf b m).srcAf = s.srcAf := by cases b <;> rfl
@[simp] theorem State.setBuf_dstAf (s : State) (b : Buf) (m : Memory) : (s.setBuf b m).dstAf = s.dstAf := by cases b <;> rfl
@[simp] theorem State.setBuf_srcPort (s : State) (b : Buf) (m : Memory) : (s.setBuf b m).srcPort = s.srcPort := by cases b <;> rfl
@[simp] theorem State.setBuf_dstPort (s : State) (b : Buf) (m : Memory) : (s.setBuf b m).dstPort = s.dstPort := by cases b <;> rfl
@[simp] theorem State.setBuf_ctrl (s : State) (b : Buf) (m : Memory) : (s.setBuf b m).ctrl = s.ctrl := by cases b <;> rfl
@[simp] theorem State.setBuf_status (s : State) (b : Buf) (m : Memory) : (s.setBuf b m).status = s.status := by cases b <;> rfl
@[simp] theorem State.setBuf_errCmd (s : State) (b : Buf) (m : Memory) : (s.setBuf b m).errCmd = s.errCmd := by cases b <;> rfl
@[simp] theorem State.setBuf_txLen (s : State) (b : Buf) (m : Memory) : (s.setBuf b m).txLen = s.txLen := by cases b <;> rfl
@[simp] theorem State.setBuf_rxLen (s : State) (b : Buf) (m : Memory) : (s.setBuf b m).rxLen = s.rxLen := by cases b <;> rfl
@[simp] theorem State.setBuf_csAcc (s : State) (b : Buf) (m : Memory) : (s.setBuf b m).csAcc = s.csAcc := by cases b <;> rfl
@[simp] theorem State.setBuf_csRes (s : State) (b : Buf) (m : Memory) : (s.setBuf b m).csRes = s.csRes := by cases b <;> rfl
@[simp] theorem State.setBuf_pr (s : State) (b : Buf) (m : Memory) : (s.setBuf b m).pr = s.pr := by cases b <;> rfl
@[simp] theorem State.setBuf_res (s : State) (b : Buf) (m : Memory) : (s.setBuf b m).res = s.res := by cases b <;> rfl
@[simp] theorem State.setBuf_evt (s : State) (b : Buf) (m : Memory) : (s.setBuf b m).evt = s.evt := by cases b <;> rfl
@[simp] theorem State.setBuf_vt (s : State) (b : Buf) (m : Memory) : (s.setBuf b m).vt = s.vt := by cases b <;> rfl
@[simp] theorem State.setBuf_input (s : State) (b : Buf) (m : Memory) : (s.setBuf b m).input = s.input := by cases b <;> rfl
@[simp] theorem State.setBuf_resp (s : State) (b : Buf) (m : Memory) : (s.setBuf b m).resp = s.resp := by cases b <;> rfl

@[simp] theorem State.setAddr_srcAf (s : State) (r : AddrReg) (a : Addr) : (s.setAddr r a).srcAf = s.srcAf := by cases r <;> rfl
@[simp] theorem State.setAddr_dstAf (s : State) (r : AddrReg) (a : Addr) : (s.setAddr r a).dstAf = s.dstAf := by cases r <;> rfl
@[simp] theorem State.setAddr_srcPort (s : State) (r : AddrReg) (a : Addr) : (s.setAddr r a).srcPort = s.srcPort := by cases r <;> rfl
@[simp] theorem State.setAddr_dstPort (s : State) (r : AddrReg) (a : Addr) : (s.setAddr r a).dstPort = s.dstPort := by cases r <;> rfl
@[simp] theorem State.setAddr_ctrl (s : State) (r : AddrReg) (a : Addr) : (s.setAddr r a).ctrl = s.ctrl := by cases r <;> rfl
@[simp] theorem State.setAddr_status (s : State) (r : AddrReg) (a : Addr) : (s.setAddr r a).status = s.status := by cases r <;> rfl
@[simp] theorem State.setAddr_errCmd (s : State) (r : AddrReg) (a : Addr) : (s.setAddr r a).errCmd = s.errCmd := by cases r <;> rfl
@[simp] theorem State.setAddr_txLen (s : State) (r : AddrReg) (a : Addr) : (s.setAddr r a).txLen = s.txLen := by cases r <;> rfl
@[simp] theorem State.setAddr_rxLen (s : State) (r : AddrReg) (a : Addr) : (s.setAddr r a).rxLen = s.rxLen := by cases r <;> rfl
@[simp] theorem State.setAddr_csAcc (s : State) (r : AddrReg) (a : Addr) : (s.setAddr r a).csAcc = s.csAcc := by cases r <;> rfl
@[simp] theorem State.setAddr_csRes (s : State) (r : AddrReg) (a : Addr) : (s.setAddr r a).csRes = s.csRes := by cases r <;> rfl
@[simp] theorem State.setAddr_pr (s : State) (r : AddrReg) (a : Addr) : (s.setAddr r a).pr = s.pr := by cases r <;> rfl
@[simp] theorem State.setAddr_res (s : State) (r : AddrReg) (a : Addr) : (s.setAddr r a).res = s.res := by cases r <;> rfl
@[simp] theorem State.setAddr_evt (s : State) (r : AddrReg) (a : Addr) : (s.setAddr r a).evt = s.evt := by cases r <;> rfl
@[simp] theorem State.setAddr_txbuf (s : State) (r : AddrReg) (a : Addr) : (s.setAddr r a).txbuf = s.txbuf := by cases r <;> rfl
@[simp] theorem State.setAddr_rxbuf (s : State) (r : AddrReg) (a : Addr) : (s.setAddr r a).rxbuf = s.rxbuf := by cases r <;> rfl
@[simp] theorem State.setAddr_vt (s : State) (r : AddrReg) (a : Addr) : (s.setAddr r a).vt = s.vt := by cases r <;> rfl
@[simp] theorem State.setAddr_input (s : State) (r : AddrReg) (a : Addr) : (s.setAddr r a).input = s.input := by cases r <;> rfl
@[simp] theorem State.setAddr_resp (s : State) (r : AddrReg) (a : Addr) : (s.setAddr r a).resp = s.resp := by cases r <;> rfl

@[simp] theorem State.setAfTag_srcAddr (s : State) (r : AddrReg) (f : AF) : (s.setAfTag r f).srcAddr = s.srcAddr := by cases r <;> rfl
@[simp] theorem State.setAfTag_dstAddr (s : State) (r : AddrReg) (f : AF) : (s.setAfTag r f).dstAddr = s.dstAddr := by cases r <;> rfl
@[simp] theorem State.setAfTag_srcPort (s : State) (r : AddrReg) (f : AF) : (s.setAfTag r f).srcPort = s.srcPort := by cases r <;> rfl
@[simp] theorem State.setAfTag_dstPort (s : State) (r : AddrReg) (f : AF) : (s.setAfTag r f).dstPort = s.dstPort := by cases r <;> rfl
@[simp] theorem State.setAfTag_ctrl (s : State) (r : AddrReg) (f : AF) : (s.setAfTag r f).ctrl = s.ctrl := by cases r <;> rfl
@[simp] theorem State.setAfTag_status (s : State) (r : AddrReg) (f : AF) : (s.setAfTag r f).status = s.status := by cases r <;> rfl
@[simp] theorem State.setAfTag_errCmd (s : State) (r : AddrReg) (f : AF) : (s.setAfTag r f).errCmd = s.errCmd := by cases r <;> rfl
@[simp] theorem State.setAfTag_txLen (s : State) (r : AddrReg) (f : AF) : (s.setAfTag r f).txLen = s.txLen := by cases r <;> rfl
@[simp] theorem State.setAfTag_rxLen (s : State) (r : AddrReg) (f : AF) : (s.setAfTag r f).rxLen = s.rxLen := by cases r <;> rfl
@[simp] theorem State.setAfTag_csAcc (s : State) (r : AddrReg) (f : AF) : (s.setAfTag r f).csAcc = s.csAcc := by cases r <;> rfl
@[simp] theorem State.setAfTag_csRes (s : State) (r : AddrReg) (f : AF) : (s.setAfTag r f).csRes = s.csRes := by cases r <;> rfl
@[simp] theorem State.setAfTag_pr (s : State) (r : AddrReg) (f : AF) : (s.setAfTag r f).pr = s.pr := by cases r <;> rfl
@[simp] theorem State.setAfTag_res (s : State) (r : AddrReg) (f : AF) : (s.setAfTag r f).res = s.res := by cases r <;> rfl
@[simp] theorem State.setAfTag_evt (s : State) (r : AddrReg) (f : AF) : (s.setAfTag r f).evt = s.evt := by cases r <;> rfl
@[simp] theorem State.setAfTag_txbuf (s : State) (r : AddrReg) (f : AF) : (s.setAfTag r f).txbuf = s.txbuf := by cases r <;> rfl
@[simp] theorem State.setAfTag_rxbuf (s : State) (r : AddrReg) (f : AF) : (s.setAfTag r f).rxbuf = s.rxbuf := by cases r <;> rfl
@[simp] theorem State.setAfTag_vt (s : State) (r : AddrReg) (f : AF) : (s.setAfTag r f).vt = s.vt := by cases r <;> rfl
@[simp] theorem State.setAfTag_input (s : State) (r : AddrReg) (f : AF) : (s.setAfTag r f).input = s.input := by cases r <;> rfl
@[simp] theorem State.setAfTag_resp (s : State) (r : AddrReg) (f : AF) : (s.setAfTag r f).resp = s.resp := by cases r <;> rfl

@[simp] theorem State.setVerdict_srcAddr (s : State) (p : Proto) (port : Half) (v : Verdict) : (s.setVerdict p port v).srcAddr = s.srcAddr := rfl
@[simp] theorem State.setVerdict_dstAddr (s : State) (p : Proto) (port : Half) (v : Verdict) : (s.setVerdict p port v).dstAddr = s.dstAddr := rfl
@[simp] theorem State.setVerdict_srcAf (s : State) (p : Proto) (port : Half) (v : Verdict) : (s.setVerdict p port v).srcAf = s.srcAf := rfl
@[simp] theorem State.setVerdict_dstAf (s : State) (p : Proto) (port : Half) (v : Verdict) : (s.setVerdict p port v).dstAf = s.dstAf := rfl
@[simp] theorem State.setVerdict_srcPort (s : State) (p : Proto) (port : Half) (v : Verdict) : (s.setVerdict p port v).srcPort = s.srcPort := rfl
@[simp] theorem State.setVerdict_dstPort (s : State) (p : Proto) (port : Half) (v : Verdict) : (s.setVerdict p port v).dstPort = s.dstPort := rfl
@[simp] theorem State.setVerdict_ctrl (s : State) (p : Proto) (port : Half) (v : Verdict) : (s.setVerdict p port v).ctrl = s.ctrl := rfl
@[simp] theorem State.setVerdict_status (s : State) (p : Proto) (port : Half) (v : Verdict) : (s.setVerdict p port v).status = s.status := rfl
@[simp] theorem State.setVerdict_errCmd (s : State) (p : Proto) (port : Half) (v : Verdict) : (s.setVerdict p port v).errCmd = s.errCmd := rfl
@[simp] theorem State.setVerdict_txLen (s : State) (p : Proto) (port : Half) (v : Verdict) : (s.setVerdict p port v).txLen = s.txLen := rfl
@[simp] theorem State.setVerdict_rxLen (s : State) (p : Proto) (port : Half) (v : Verdict) : (s.setVerdict p port v).rxLen = s.rxLen := rfl
@[simp] theorem State.setVerdict_csAcc (s : State) (p : Proto) (port : Half) (v : Verdict) : (s.setVerdict p port v).csAcc = s.csAcc := rfl
@[simp] theorem State.setVerdict_csRes (s : State) (p : Proto) (port : Half) (v : Verdict) : (s.setVerdict p port v).csRes = s.csRes := rfl
@[simp] theorem State.setVerdict_pr (s : State) (p : Proto) (port : Half) (v : Verdict) : (s.setVerdict p port v).pr = s.pr := rfl
@[simp] theorem State.setVerdict_res (s : State) (p : Proto) (port : Half) (v : Verdict) : (s.setVerdict p port v).res = s.res := rfl
@[simp] theorem State.setVerdict_evt (s : State) (p : Proto) (port : Half) (v : Verdict) : (s.setVerdict p port v).evt = s.evt := rfl
@[simp] theorem State.setVerdict_txbuf (s : State) (p : Proto) (port : Half) (v : Verdict) : (s.setVerdict p port v).txbuf = s.txbuf := rfl
@[simp] theorem State.setVerdict_rxbuf (s : State) (p : Proto) (port : Half) (v : Verdict) : (s.setVerdict p port v).rxbuf = s.rxbuf := rfl
@[simp] theorem State.setVerdict_vt (s : State) (p : Proto) (port : Half) (v : Verdict) : (s.setVerdict p port v).vt = Sparse.set .absent (vtKey p port) v s.vt := rfl
@[simp] theorem State.setVerdict_input (s : State) (p : Proto) (port : Half) (v : Verdict) : (s.setVerdict p port v).input = s.input := rfl
@[simp] theorem State.setVerdict_resp (s : State) (p : Proto) (port : Half) (v : Verdict) : (s.setVerdict p port v).resp = s.resp := rfl

@[simp] theorem State.setTx_srcAddr (s : State) (bytes : List Byte) : (s.setTx bytes).srcAddr = s.srcAddr := rfl
@[simp] theorem State.setTx_dstAddr (s : State) (bytes : List Byte) : (s.setTx bytes).dstAddr = s.dstAddr := rfl
@[simp] theorem State.setTx_srcAf (s : State) (bytes : List Byte) : (s.setTx bytes).srcAf = s.srcAf := rfl
@[simp] theorem State.setTx_dstAf (s : State) (bytes : List Byte) : (s.setTx bytes).dstAf = s.dstAf := rfl
@[simp] theorem State.setTx_srcPort (s : State) (bytes : List Byte) : (s.setTx bytes).srcPort = s.srcPort := rfl
@[simp] theorem State.setTx_dstPort (s : State) (bytes : List Byte) : (s.setTx bytes).dstPort = s.dstPort := rfl
@[simp] theorem State.setTx_ctrl (s : State) (bytes : List Byte) : (s.setTx bytes).ctrl = s.ctrl := rfl
@[simp] theorem State.setTx_status (s : State) (bytes : List Byte) : (s.setTx bytes).status = s.status := rfl
@[simp] theorem State.setTx_errCmd (s : State) (bytes : List Byte) : (s.setTx bytes).errCmd = s.errCmd := rfl
@[simp] theorem State.setTx_txLen (s : State) (bytes : List Byte) : (s.setTx bytes).txLen = BitVec.ofNat 7 bytes.length := rfl
@[simp] theorem State.setTx_rxLen (s : State) (bytes : List Byte) : (s.setTx bytes).rxLen = s.rxLen := rfl
@[simp] theorem State.setTx_csAcc (s : State) (bytes : List Byte) : (s.setTx bytes).csAcc = s.csAcc := rfl
@[simp] theorem State.setTx_csRes (s : State) (bytes : List Byte) : (s.setTx bytes).csRes = s.csRes := rfl
@[simp] theorem State.setTx_pr (s : State) (bytes : List Byte) : (s.setTx bytes).pr = s.pr := rfl
@[simp] theorem State.setTx_res (s : State) (bytes : List Byte) : (s.setTx bytes).res = s.res := rfl
@[simp] theorem State.setTx_evt (s : State) (bytes : List Byte) : (s.setTx bytes).evt = s.evt := rfl
@[simp] theorem State.setTx_txbuf (s : State) (bytes : List Byte) : (s.setTx bytes).txbuf = s.txbuf.writeBytes 0 bytes := rfl
@[simp] theorem State.setTx_rxbuf (s : State) (bytes : List Byte) : (s.setTx bytes).rxbuf = s.rxbuf := rfl
@[simp] theorem State.setTx_vt (s : State) (bytes : List Byte) : (s.setTx bytes).vt = s.vt := rfl
@[simp] theorem State.setTx_input (s : State) (bytes : List Byte) : (s.setTx bytes).input = s.input := rfl
@[simp] theorem State.setTx_resp (s : State) (bytes : List Byte) : (s.setTx bytes).resp = s.resp := rfl

@[simp] theorem State.setPr_srcAddr (s : State) (pr : ParseRegs) : (s.setPr pr).srcAddr = s.srcAddr := rfl
@[simp] theorem State.setPr_dstAddr (s : State) (pr : ParseRegs) : (s.setPr pr).dstAddr = s.dstAddr := rfl
@[simp] theorem State.setPr_srcAf (s : State) (pr : ParseRegs) : (s.setPr pr).srcAf = s.srcAf := rfl
@[simp] theorem State.setPr_dstAf (s : State) (pr : ParseRegs) : (s.setPr pr).dstAf = s.dstAf := rfl
@[simp] theorem State.setPr_srcPort (s : State) (pr : ParseRegs) : (s.setPr pr).srcPort = s.srcPort := rfl
@[simp] theorem State.setPr_dstPort (s : State) (pr : ParseRegs) : (s.setPr pr).dstPort = s.dstPort := rfl
@[simp] theorem State.setPr_ctrl (s : State) (pr : ParseRegs) : (s.setPr pr).ctrl = s.ctrl := rfl
@[simp] theorem State.setPr_status (s : State) (pr : ParseRegs) : (s.setPr pr).status = s.status := rfl
@[simp] theorem State.setPr_errCmd (s : State) (pr : ParseRegs) : (s.setPr pr).errCmd = s.errCmd := rfl
@[simp] theorem State.setPr_txLen (s : State) (pr : ParseRegs) : (s.setPr pr).txLen = s.txLen := rfl
@[simp] theorem State.setPr_rxLen (s : State) (pr : ParseRegs) : (s.setPr pr).rxLen = s.rxLen := rfl
@[simp] theorem State.setPr_csAcc (s : State) (pr : ParseRegs) : (s.setPr pr).csAcc = s.csAcc := rfl
@[simp] theorem State.setPr_csRes (s : State) (pr : ParseRegs) : (s.setPr pr).csRes = s.csRes := rfl
@[simp] theorem State.setPr_pr (s : State) (pr : ParseRegs) : (s.setPr pr).pr = pr := rfl
@[simp] theorem State.setPr_res (s : State) (pr : ParseRegs) : (s.setPr pr).res = s.res := rfl
@[simp] theorem State.setPr_evt (s : State) (pr : ParseRegs) : (s.setPr pr).evt = s.evt := rfl
@[simp] theorem State.setPr_txbuf (s : State) (pr : ParseRegs) : (s.setPr pr).txbuf = s.txbuf := rfl
@[simp] theorem State.setPr_rxbuf (s : State) (pr : ParseRegs) : (s.setPr pr).rxbuf = s.rxbuf := rfl
@[simp] theorem State.setPr_vt (s : State) (pr : ParseRegs) : (s.setPr pr).vt = s.vt := rfl
@[simp] theorem State.setPr_input (s : State) (pr : ParseRegs) : (s.setPr pr).input = s.input := rfl
@[simp] theorem State.setPr_resp (s : State) (pr : ParseRegs) : (s.setPr pr).resp = s.resp := rfl

@[simp] theorem State.setRes_srcAddr (s : State) (r : BitVec 24) : (s.setRes r).srcAddr = s.srcAddr := rfl
@[simp] theorem State.setRes_dstAddr (s : State) (r : BitVec 24) : (s.setRes r).dstAddr = s.dstAddr := rfl
@[simp] theorem State.setRes_srcAf (s : State) (r : BitVec 24) : (s.setRes r).srcAf = s.srcAf := rfl
@[simp] theorem State.setRes_dstAf (s : State) (r : BitVec 24) : (s.setRes r).dstAf = s.dstAf := rfl
@[simp] theorem State.setRes_srcPort (s : State) (r : BitVec 24) : (s.setRes r).srcPort = s.srcPort := rfl
@[simp] theorem State.setRes_dstPort (s : State) (r : BitVec 24) : (s.setRes r).dstPort = s.dstPort := rfl
@[simp] theorem State.setRes_ctrl (s : State) (r : BitVec 24) : (s.setRes r).ctrl = s.ctrl := rfl
@[simp] theorem State.setRes_status (s : State) (r : BitVec 24) : (s.setRes r).status = s.status := rfl
@[simp] theorem State.setRes_errCmd (s : State) (r : BitVec 24) : (s.setRes r).errCmd = s.errCmd := rfl
@[simp] theorem State.setRes_txLen (s : State) (r : BitVec 24) : (s.setRes r).txLen = s.txLen := rfl
@[simp] theorem State.setRes_rxLen (s : State) (r : BitVec 24) : (s.setRes r).rxLen = s.rxLen := rfl
@[simp] theorem State.setRes_csAcc (s : State) (r : BitVec 24) : (s.setRes r).csAcc = s.csAcc := rfl
@[simp] theorem State.setRes_csRes (s : State) (r : BitVec 24) : (s.setRes r).csRes = s.csRes := rfl
@[simp] theorem State.setRes_pr (s : State) (r : BitVec 24) : (s.setRes r).pr = s.pr := rfl
@[simp] theorem State.setRes_res (s : State) (r : BitVec 24) : (s.setRes r).res = r := rfl
@[simp] theorem State.setRes_evt (s : State) (r : BitVec 24) : (s.setRes r).evt = s.evt := rfl
@[simp] theorem State.setRes_txbuf (s : State) (r : BitVec 24) : (s.setRes r).txbuf = s.txbuf := rfl
@[simp] theorem State.setRes_rxbuf (s : State) (r : BitVec 24) : (s.setRes r).rxbuf = s.rxbuf := rfl
@[simp] theorem State.setRes_vt (s : State) (r : BitVec 24) : (s.setRes r).vt = s.vt := rfl
@[simp] theorem State.setRes_input (s : State) (r : BitVec 24) : (s.setRes r).input = s.input := rfl
@[simp] theorem State.setRes_resp (s : State) (r : BitVec 24) : (s.setRes r).resp = s.resp := rfl

@[simp] theorem State.setEvent_srcAddr (s : State) (c : Candidate) (r : BitVec 24) : (s.setEvent c r).srcAddr = s.srcAddr := rfl
@[simp] theorem State.setEvent_dstAddr (s : State) (c : Candidate) (r : BitVec 24) : (s.setEvent c r).dstAddr = s.dstAddr := rfl
@[simp] theorem State.setEvent_srcAf (s : State) (c : Candidate) (r : BitVec 24) : (s.setEvent c r).srcAf = s.srcAf := rfl
@[simp] theorem State.setEvent_dstAf (s : State) (c : Candidate) (r : BitVec 24) : (s.setEvent c r).dstAf = s.dstAf := rfl
@[simp] theorem State.setEvent_srcPort (s : State) (c : Candidate) (r : BitVec 24) : (s.setEvent c r).srcPort = s.srcPort := rfl
@[simp] theorem State.setEvent_dstPort (s : State) (c : Candidate) (r : BitVec 24) : (s.setEvent c r).dstPort = s.dstPort := rfl
@[simp] theorem State.setEvent_ctrl (s : State) (c : Candidate) (r : BitVec 24) : (s.setEvent c r).ctrl = s.ctrl := rfl
@[simp] theorem State.setEvent_status (s : State) (c : Candidate) (r : BitVec 24) : (s.setEvent c r).status = s.status.withPend true := rfl
@[simp] theorem State.setEvent_errCmd (s : State) (c : Candidate) (r : BitVec 24) : (s.setEvent c r).errCmd = s.errCmd := rfl
@[simp] theorem State.setEvent_txLen (s : State) (c : Candidate) (r : BitVec 24) : (s.setEvent c r).txLen = s.txLen := rfl
@[simp] theorem State.setEvent_rxLen (s : State) (c : Candidate) (r : BitVec 24) : (s.setEvent c r).rxLen = s.rxLen := rfl
@[simp] theorem State.setEvent_csAcc (s : State) (c : Candidate) (r : BitVec 24) : (s.setEvent c r).csAcc = s.csAcc := rfl
@[simp] theorem State.setEvent_csRes (s : State) (c : Candidate) (r : BitVec 24) : (s.setEvent c r).csRes = s.csRes := rfl
@[simp] theorem State.setEvent_pr (s : State) (c : Candidate) (r : BitVec 24) : (s.setEvent c r).pr = s.pr := rfl
@[simp] theorem State.setEvent_res (s : State) (c : Candidate) (r : BitVec 24) : (s.setEvent c r).res = s.res := rfl
@[simp] theorem State.setEvent_evt (s : State) (c : Candidate) (r : BitVec 24) : (s.setEvent c r).evt = r := rfl
@[simp] theorem State.setEvent_txbuf (s : State) (c : Candidate) (r : BitVec 24) : (s.setEvent c r).txbuf = s.txbuf := rfl
@[simp] theorem State.setEvent_rxbuf (s : State) (c : Candidate) (r : BitVec 24) : (s.setEvent c r).rxbuf = s.rxbuf := rfl
@[simp] theorem State.setEvent_vt (s : State) (c : Candidate) (r : BitVec 24) : (s.setEvent c r).vt = Sparse.set .absent (vtKey c.proto c.port) c.verdict s.vt := rfl
@[simp] theorem State.setEvent_input (s : State) (c : Candidate) (r : BitVec 24) : (s.setEvent c r).input = s.input := rfl
@[simp] theorem State.setEvent_resp (s : State) (c : Candidate) (r : BitVec 24) : (s.setEvent c r).resp = s.resp := rfl

@[simp] theorem State.setInput_srcAddr (s : State) (l : List HostEvent) : (s.setInput l).srcAddr = s.srcAddr := rfl
@[simp] theorem State.setInput_dstAddr (s : State) (l : List HostEvent) : (s.setInput l).dstAddr = s.dstAddr := rfl
@[simp] theorem State.setInput_srcAf (s : State) (l : List HostEvent) : (s.setInput l).srcAf = s.srcAf := rfl
@[simp] theorem State.setInput_dstAf (s : State) (l : List HostEvent) : (s.setInput l).dstAf = s.dstAf := rfl
@[simp] theorem State.setInput_srcPort (s : State) (l : List HostEvent) : (s.setInput l).srcPort = s.srcPort := rfl
@[simp] theorem State.setInput_dstPort (s : State) (l : List HostEvent) : (s.setInput l).dstPort = s.dstPort := rfl
@[simp] theorem State.setInput_ctrl (s : State) (l : List HostEvent) : (s.setInput l).ctrl = s.ctrl := rfl
@[simp] theorem State.setInput_status (s : State) (l : List HostEvent) : (s.setInput l).status = s.status := rfl
@[simp] theorem State.setInput_errCmd (s : State) (l : List HostEvent) : (s.setInput l).errCmd = s.errCmd := rfl
@[simp] theorem State.setInput_txLen (s : State) (l : List HostEvent) : (s.setInput l).txLen = s.txLen := rfl
@[simp] theorem State.setInput_rxLen (s : State) (l : List HostEvent) : (s.setInput l).rxLen = s.rxLen := rfl
@[simp] theorem State.setInput_csAcc (s : State) (l : List HostEvent) : (s.setInput l).csAcc = s.csAcc := rfl
@[simp] theorem State.setInput_csRes (s : State) (l : List HostEvent) : (s.setInput l).csRes = s.csRes := rfl
@[simp] theorem State.setInput_pr (s : State) (l : List HostEvent) : (s.setInput l).pr = s.pr := rfl
@[simp] theorem State.setInput_res (s : State) (l : List HostEvent) : (s.setInput l).res = s.res := rfl
@[simp] theorem State.setInput_evt (s : State) (l : List HostEvent) : (s.setInput l).evt = s.evt := rfl
@[simp] theorem State.setInput_txbuf (s : State) (l : List HostEvent) : (s.setInput l).txbuf = s.txbuf := rfl
@[simp] theorem State.setInput_rxbuf (s : State) (l : List HostEvent) : (s.setInput l).rxbuf = s.rxbuf := rfl
@[simp] theorem State.setInput_vt (s : State) (l : List HostEvent) : (s.setInput l).vt = s.vt := rfl
@[simp] theorem State.setInput_input (s : State) (l : List HostEvent) : (s.setInput l).input = l := rfl
@[simp] theorem State.setInput_resp (s : State) (l : List HostEvent) : (s.setInput l).resp = s.resp := rfl

-- Updates that an operand selects.

@[simp] theorem State.setBuf_rx_rxbuf (s : State) (m : Memory) : (s.setBuf .rx m).rxbuf = m := rfl
@[simp] theorem State.setBuf_rx_txbuf (s : State) (m : Memory) : (s.setBuf .rx m).txbuf = s.txbuf := rfl
@[simp] theorem State.setBuf_tx_txbuf (s : State) (m : Memory) : (s.setBuf .tx m).txbuf = m := rfl
@[simp] theorem State.setBuf_tx_rxbuf (s : State) (m : Memory) : (s.setBuf .tx m).rxbuf = s.rxbuf := rfl
@[simp] theorem State.setAddr_src_srcAddr (s : State) (a : Addr) : (s.setAddr .src a).srcAddr = a := rfl
@[simp] theorem State.setAddr_src_dstAddr (s : State) (a : Addr) : (s.setAddr .src a).dstAddr = s.dstAddr := rfl
@[simp] theorem State.setAddr_dst_dstAddr (s : State) (a : Addr) : (s.setAddr .dst a).dstAddr = a := rfl
@[simp] theorem State.setAddr_dst_srcAddr (s : State) (a : Addr) : (s.setAddr .dst a).srcAddr = s.srcAddr := rfl
@[simp] theorem State.setAfTag_src_srcAf (s : State) (f : AF) : (s.setAfTag .src f).srcAf = f := rfl
@[simp] theorem State.setAfTag_src_dstAf (s : State) (f : AF) : (s.setAfTag .src f).dstAf = s.dstAf := rfl
@[simp] theorem State.setAfTag_dst_dstAf (s : State) (f : AF) : (s.setAfTag .dst f).dstAf = f := rfl
@[simp] theorem State.setAfTag_dst_srcAf (s : State) (f : AF) : (s.setAfTag .dst f).srcAf = s.srcAf := rfl

-- The status flags.

@[simp] theorem Status.recordError_err (e : CmdError) (st : Status) : (st.recordError e).err = true := rfl
@[simp] theorem Status.recordError_errCode (e : CmdError) (st : Status) :
    (st.recordError e).errCode = if st.err then st.errCode else e.code := rfl
@[simp] theorem Status.recordError_evtPend (e : CmdError) (st : Status) : (st.recordError e).evtPend = st.evtPend := rfl
@[simp] theorem Status.clearError_err (st : Status) : st.clearError.err = false := rfl
@[simp] theorem Status.clearError_errCode (st : Status) : st.clearError.errCode = 0#4 := rfl
@[simp] theorem Status.clearError_evtPend (st : Status) : st.clearError.evtPend = st.evtPend := rfl
@[simp] theorem Status.withPend_err (b : Bool) (st : Status) : (st.withPend b).err = st.err := rfl
@[simp] theorem Status.withPend_errCode (b : Bool) (st : Status) : (st.withPend b).errCode = st.errCode := rfl
@[simp] theorem Status.withPend_evtPend (b : Bool) (st : Status) : (st.withPend b).evtPend = b := rfl

end Sys2Proof.Machine
end

