-- ==== Sys2Proof/Laws/Memory.lean ====
section
/-! SUPPORT. The laws of sparse data, of the byte buffers and of the verdict table: a read after a write, and that every
operation keeps the canonical form. -/

namespace Sys2Proof.Machine

variable {α : Type}

-- Reading.

@[simp] theorem Sparse.get_nil (d : α) (k : Nat) : Sparse.get d k [] = d := rfl

theorem Sparse.get_cons (d : α) (k : Nat) (c : Nat × α) (m : List (Nat × α)) :
    Sparse.get d k (c :: m) = if c.1 = k then c.2 else Sparse.get d k m := rfl

/-- A key no entry has reads as an unlisted one. -/
theorem Sparse.get_of_not_mem {d : α} {k : Nat} : ∀ {m : List (Nat × α)}, (∀ c ∈ m, c.1 ≠ k) → Sparse.get d k m = d
  | [], _ => rfl
  | c :: m, h => by
    rw [Sparse.get_cons, if_neg (h c (by simp)), Sparse.get_of_not_mem fun c hc => h c (by simp [hc])]

theorem Sparse.get_filter_ne (d : α) {k j : Nat} (h : j ≠ k) :
    ∀ m : List (Nat × α), Sparse.get d j (m.filter (fun c => c.1 ≠ k)) = Sparse.get d j m
  | [] => rfl
  | c :: m => by
    have ih := Sparse.get_filter_ne d h m
    by_cases hc : c.1 = k
    · simp [Sparse.get_cons, hc, Ne.symm h] at ih ⊢; exact ih
    · simp [Sparse.get_cons, hc] at ih ⊢; rw [ih]

theorem Sparse.get_insert (d : α) (k : Nat) (v : α) (j : Nat) :
    ∀ m : List (Nat × α), (∀ c ∈ m, c.1 ≠ k) →
      Sparse.get d j (Sparse.insert k v m) = if k = j then v else Sparse.get d j m
  | [], _ => rfl
  | c :: m, h => by
    have ih := Sparse.get_insert d k v j m fun c hc => h c (by simp [hc])
    have hck : c.1 ≠ k := h c (by simp)
    by_cases hlt : k < c.1
    · simp [Sparse.insert, hlt, Sparse.get_cons]
    · by_cases hcj : c.1 = j
      · subst hcj
        simp [Sparse.insert, hlt, Sparse.get_cons, Ne.symm hck]
      · simp [Sparse.insert, hlt, Sparse.get_cons, hcj, ih]

theorem Sparse.keys_filter_ne (k : Nat) (m : List (Nat × α)) : ∀ c ∈ m.filter (fun c => c.1 ≠ k), c.1 ≠ k := by
  intro c hc; simpa using (List.mem_filter.1 hc).2

/-- A read after a write, on any list: the written key reads the value, every other key reads as before. -/
theorem Sparse.get_set [DecidableEq α] (d : α) (k : Nat) (v : α) (m : List (Nat × α)) (j : Nat) :
    Sparse.get d j (Sparse.set d k v m) = if k = j then v else Sparse.get d j m := by
  unfold Sparse.set
  by_cases hv : v = d
  · by_cases hj : k = j
    · subst hj; simp only [hv, if_true]; exact Sparse.get_of_not_mem (Sparse.keys_filter_ne k m)
    · simp only [hv, if_true, if_neg hj]; exact Sparse.get_filter_ne d (Ne.symm hj) m
  · simp only [if_neg hv, Sparse.get_insert d k v j _ (Sparse.keys_filter_ne k m)]
    split
    · rfl
    · exact Sparse.get_filter_ne d (Ne.symm ‹_›) m

-- The canonical form.

theorem Sparse.mem_insert {k : Nat} {v : α} {c : Nat × α} :
    ∀ {m : List (Nat × α)}, c ∈ Sparse.insert k v m ↔ c = (k, v) ∨ c ∈ m
  | [] => by simp [Sparse.insert]
  | a :: m => by
    by_cases h : k < a.1
    · simp [Sparse.insert, h]
    · simp only [Sparse.insert, h, if_false, List.mem_cons, Sparse.mem_insert (m := m)]; tauto

theorem Sparse.pairwise_insert {k : Nat} {v : α} :
    ∀ {m : List (Nat × α)}, m.Pairwise (fun a b => a.1 < b.1) → (∀ c ∈ m, c.1 ≠ k) →
      (Sparse.insert k v m).Pairwise (fun a b => a.1 < b.1)
  | [], _, _ => by simp [Sparse.insert]
  | a :: m, hp, hk => by
    obtain ⟨ha, hm⟩ := List.pairwise_cons.1 hp
    by_cases h : k < a.1
    · simp only [Sparse.insert, h, if_true, List.pairwise_cons]
      exact ⟨fun b hb => (List.mem_cons.1 hb).elim (fun e => e ▸ h) (fun hb => h.trans (ha b hb)), ha, hm⟩
    · have hlt : a.1 < k := lt_of_le_of_ne (not_lt.1 h) (hk a (by simp))
      simp only [Sparse.insert, h, if_false, List.pairwise_cons]
      refine ⟨fun b hb => ?_, Sparse.pairwise_insert hm fun c hc => hk c (by simp [hc])⟩
      rcases Sparse.mem_insert.1 hb with rfl | hb
      · exact hlt
      · exact ha b hb

/-- An entry of the written data is an entry of the old data at another key, or the written one. -/
theorem Sparse.mem_set [DecidableEq α] {d : α} {k : Nat} {v : α} {m : List (Nat × α)} {c : Nat × α}
    (h : c ∈ Sparse.set d k v m) : (c = (k, v) ∧ v ≠ d) ∨ c ∈ m := by
  unfold Sparse.set at h
  by_cases hv : v = d
  · simp only [hv, if_true] at h; exact .inr (List.mem_of_mem_filter h)
  · simp only [if_neg hv] at h
    rcases Sparse.mem_insert.1 h with h | h
    · exact .inl ⟨h, hv⟩
    · exact .inr (List.mem_of_mem_filter h)

/-- A write keeps the canonical form. -/
theorem Sparse.wf_set [DecidableEq α] {d : α} {m : List (Nat × α)} (h : Sparse.wf d m) (k : Nat) (v : α) :
    Sparse.wf d (Sparse.set d k v m) := by
  refine ⟨?_, fun c hc => ?_⟩
  · unfold Sparse.set
    have hf := h.1.filter (fun c => c.1 ≠ k)
    by_cases hv : v = d
    · simpa only [hv, if_true] using hf
    · simpa only [if_neg hv] using Sparse.pairwise_insert hf (Sparse.keys_filter_ne k m)
  · rcases Sparse.mem_set hc with ⟨rfl, hv⟩ | hc
    · exact hv
    · exact h.2 c hc

/-- A write at a key below a bound keeps every key below it. -/
theorem Sparse.keys_set [DecidableEq α] {d : α} {m : List (Nat × α)} {n k : Nat} (h : ∀ c ∈ m, c.1 < n) (hk : k < n)
    (v : α) : ∀ c ∈ Sparse.set d k v m, c.1 < n := by
  intro c hc
  rcases Sparse.mem_set hc with ⟨rfl, _⟩ | hc
  · exact hk
  · exact h c hc

/-- Canonical data with equal reads are equal data. -/
theorem Sparse.ext_of_wf [DecidableEq α] {d : α} :
    ∀ {m m' : List (Nat × α)}, Sparse.wf d m → Sparse.wf d m' → (∀ k, Sparse.get d k m = Sparse.get d k m') → m = m'
  | [], [], _, _, _ => rfl
  | [], c :: m', _, h', e => by
    have := e c.1; simp [Sparse.get_cons] at this; exact absurd this.symm (h'.2 c (by simp))
  | c :: m, [], h, _, e => by
    have := e c.1; simp [Sparse.get_cons] at this; exact absurd this (h.2 c (by simp))
  | c :: m, c' :: m', h, h', e => by
    have hc := List.pairwise_cons.1 h.1
    have hc' := List.pairwise_cons.1 h'.1
    have low : ∀ {a b : Nat × α} {l : List (Nat × α)}, (∀ x ∈ l, b.1 < x.1) → a.1 < b.1 → Sparse.get d a.1 (b :: l) = d := by
      intro a b l hl hab
      refine Sparse.get_of_not_mem fun x hx => ?_
      rcases List.mem_cons.1 hx with rfl | hx
      · omega
      · have := hl x hx; omega
    have hkey : c.1 = c'.1 := by
      rcases lt_trichotomy c.1 c'.1 with hlt | heq | hlt
      · have := e c.1; rw [low hc'.1 hlt] at this
        simp [Sparse.get_cons] at this; exact absurd this (h.2 c (by simp))
      · exact heq
      · have := e c'.1; rw [low hc.1 hlt] at this
        simp [Sparse.get_cons] at this; exact absurd this.symm (h'.2 c' (by simp))
    have hval : c.2 = c'.2 := by have := e c.1; simpa [Sparse.get_cons, hkey] using this
    have hcc : c = c' := Prod.ext hkey hval
    subst hcc
    congr 1
    refine Sparse.ext_of_wf ⟨hc.2, fun x hx => h.2 x (by simp [hx])⟩ ⟨hc'.2, fun x hx => h'.2 x (by simp [hx])⟩ fun k => ?_
    by_cases hk : c.1 = k
    · subst hk
      rw [Sparse.get_of_not_mem fun x hx => ne_of_gt (hc.1 x hx), Sparse.get_of_not_mem fun x hx => ne_of_gt (hc'.1 x hx)]
    · simpa [Sparse.get_cons, hk] using e k

-- Byte buffers.

@[simp] theorem Memory.read_nil (off : Nat) : Memory.read [] off = 0x00#8 := rfl

/-- A byte read after one byte was written. -/
theorem Memory.read_write (m : Memory) (k : Nat) (v : Byte) (j : Nat) :
    (m.write k v).read j = if k = j then v else m.read j := Sparse.get_set _ k v m j

theorem Memory.wf_write {m : Memory} (h : m.wf) (k : Nat) (v : Byte) : (m.write k v).wf := Sparse.wf_set h k v

/-- A byte read after a sequence was written: inside the range the sequence's byte, outside it as before. -/
theorem Memory.read_writeBytes : ∀ (vs : List Byte) (m : Memory) (k j : Nat),
    (m.writeBytes k vs).read j = if k ≤ j ∧ j < k + vs.length then vs.getD (j - k) 0#8 else m.read j
  | [], m, k, j => by simp [Memory.writeBytes, show ¬(k ≤ j ∧ j < k) by omega]
  | v :: vs, m, k, j => by
    rw [Memory.writeBytes, Memory.read_writeBytes vs, Memory.read_write]
    by_cases h1 : k = j
    · subst h1; simp
    · by_cases h2 : k + 1 ≤ j ∧ j < k + 1 + vs.length
      · rw [if_pos h2, if_pos (by simp; omega), show j - k = (j - (k + 1)) + 1 by omega, List.getD_cons_succ]
      · rw [if_neg h2, if_neg h1, if_neg (by simp; omega)]

theorem Memory.wf_writeBytes : ∀ (vs : List Byte) {m : Memory} (k : Nat), m.wf → (m.writeBytes k vs).wf
  | [], _, _, h => h
  | v :: vs, _, k, h => Memory.wf_writeBytes vs (k + 1) (Memory.wf_write h k v)

theorem Memory.keys_writeBytes {n : Nat} : ∀ (vs : List Byte) {m : Memory} (k : Nat), (∀ c ∈ m, c.1 < n) →
    k + vs.length ≤ n → ∀ c ∈ m.writeBytes k vs, c.1 < n
  | [], _, _, h, _ => h
  | v :: vs, _, k, h, hk => by
    simp only [List.length_cons] at hk
    exact Memory.keys_writeBytes vs (k + 1) (Sparse.keys_set h (by omega) v) (by omega)

@[simp] theorem Memory.length_readBytes (m : Memory) (off n : Nat) : (m.readBytes off n).length = n := by
  simp [Memory.readBytes]

theorem Memory.getElem_readBytes (m : Memory) (off n i : Nat) (h : i < (m.readBytes off n).length) :
    (m.readBytes off n)[i] = m.read (off + i) := by simp [Memory.readBytes]

-- The verdict table.

theorem vtKey_lt (p : Proto) (port : Half) : vtKey p port < 131072 := by
  have := port.isLt; cases p <;> simp [vtKey, Proto.code] <;> omega

/-- A (protocol, port) pair has a key of its own. -/
theorem vtKey_inj {p q : Proto} {m n : Half} (h : vtKey p m = vtKey q n) : p = q ∧ m = n := by
  have hm := m.isLt
  have hn := n.isLt
  cases p <;> cases q <;> simp [vtKey, Proto.code] at h ⊢ <;> first | (exact BitVec.eq_of_toNat_eq h) | omega

/-- An entry read after one entry was written. -/
theorem State.verdict_setVerdict (s : State) (p q : Proto) (m n : Half) (v : Verdict) :
    (s.setVerdict p m v).verdict q n = if p = q ∧ m = n then v else s.verdict q n := by
  rw [State.verdict, State.setVerdict_vt, Sparse.get_set, State.verdict]
  by_cases h : vtKey p m = vtKey q n
  · rw [if_pos h, if_pos (vtKey_inj h)]
  · rw [if_neg h, if_neg (fun e => h (by rw [e.1, e.2]))]

/-- An entry depends on the table alone. -/
theorem State.verdict_congr {s t : State} (h : t.vt = s.vt) (p : Proto) (n : Half) : t.verdict p n = s.verdict p n := by
  rw [State.verdict, State.verdict, h]

end Sys2Proof.Machine
end

