-- ==== Sys2Proof/Laws/Checksum.lean ====
section
/-! SUPPORT. The laws of the checksum unit: the fold in closed form, the sum of a sequence, the domain and the number of its
checksum, what CSUM answers; and how many bytes the headers made with a checksum have. -/

namespace Sys2Proof.Machine

/-- With enough fuel the fold ends: 0 for 0, and otherwise the representative of `s` modulo 65535 in 1 to 65535. -/
theorem foldSteps_eq : ∀ fuel s : Nat, s ≤ fuel → foldSteps fuel s = if s = 0 then 0 else (s - 1) % 65535 + 1
  | 0, s, h => by
    obtain rfl : s = 0 := by omega
    rfl
  | fuel + 1, s, h => by
    rw [foldSteps]
    split
    · split <;> omega
    · rw [foldSteps_eq fuel _ (by omega), if_neg (by omega), if_neg (by omega)]
      omega

/-- The fold in closed form. -/
theorem fold_eq (s : Nat) : fold s = if s = 0 then 0 else (s - 1) % 65535 + 1 := foldSteps_eq s s le_rfl

theorem fold_le (s : Nat) : fold s ≤ 65535 := by
  rw [fold_eq]
  split <;> omega

/-- `csum` answers exactly on the sequences of at most 131072 bytes, and then with the complement of the folded sum. -/
theorem csum_eq_some_iff {s : List Byte} {c : Half} :
    csum s = some c ↔ s.length ≤ Config.csumMax ∧ c.toNat = 0xFFFF - fold (acc s) := by
  rw [csum]
  split
  · simp only [Option.some.injEq, *, true_and, ← BitVec.toNat_inj, BitVec.toNat_ofNat]
    omega
  · simp [*]

theorem csum_eq_none_iff {s : List Byte} : csum s = none ↔ Config.csumMax < s.length := by simp [csum]

/-- On its domain `csum` answers `csumWithin`. -/
theorem csum_eq_csumWithin {s : List Byte} (h : s.length ≤ Config.csumMax) : csum s = some (csumWithin s h) :=
  (Option.some_get _).symm

/-- The checksum as a number. -/
theorem csumWithin_toNat {s : List Byte} (h : s.length ≤ Config.csumMax) : (csumWithin s h).toNat = 0xFFFF - fold (acc s) :=
  (csum_eq_some_iff.1 (csum_eq_csumWithin h)).2

/-- Two sequences that `csum` takes have one checksum exactly when their sums fold to one number. -/
theorem csum_eq_csum_iff {s t : List Byte} (hs : s.length ≤ Config.csumMax) (ht : t.length ≤ Config.csumMax) :
    csum s = csum t ↔ fold (acc s) = fold (acc t) := by
  rw [csum_eq_csumWithin hs, eq_comm (a := some _), csum_eq_some_iff, csumWithin_toNat]
  have := fold_le (acc s)
  have := fold_le (acc t)
  omega

/-- CSUM of a region that passes the end of the buffer raises. -/
theorem execCsum_outside {b : Buf} {off len : Nat} (s : State) (h : cap b < off + len) :
    execCsum b off len s = raise .range (encode (.csum b off len)) s := dif_pos h

/-- CSUM of a region inside the buffer answers the region's checksum and writes CS_ACC and CS_RES. -/
theorem execCsum_inside {b : Buf} {off len : Nat} (s : State) (h : ¬cap b < off + len) :
    ∃ c, csum ((s.buf b).readBytes off len) = some c ∧ execCsum b off len s =
      respond (c.setWidth 32) { s with csAcc := .ofNat 32 (acc ((s.buf b).readBytes off len)), csRes := c } :=
  ⟨_, csum_eq_csumWithin (region_le_csumMax _ h), dif_neg h⟩

@[simp] theorem acc_nil : acc [] = 0 := rfl
@[simp] theorem acc_single (b : Byte) : acc [b] = b.toNat * 256 := by simp [acc, words]
theorem acc_cons_cons (hi lo : Byte) (s : List Byte) : acc (hi :: lo :: s) = hi.toNat * 256 + lo.toNat + acc s := by
  simp [acc, words]

/-- The sum of two sequences joined, the first of even length. -/
theorem acc_append : ∀ s t : List Byte, s.length % 2 = 0 → acc (s ++ t) = acc s + acc t
  | [], t, _ => by simp
  | [_], _, h => by simp at h
  | hi :: lo :: s, t, h => by
    have ih := acc_append s t (by simp only [List.length_cons] at h; omega)
    simp only [List.cons_append, acc_cons_cons, ih]
    omega

/-- Each pair of bytes adds at most 65535. -/
theorem acc_le : ∀ s : List Byte, acc s ≤ (s.length + 1) / 2 * 65535
  | [] => by simp
  | [b] => by have := b.isLt; simp; omega
  | hi :: lo :: s => by
    have ih := acc_le s
    have := hi.isLt
    have := lo.isLt
    rw [acc_cons_cons]
    simp only [List.length_cons]
    omega

@[simp] theorem hiByte_toNat (v : Half) : (hiByte v).toNat = v.toNat / 256 := by
  have := v.isLt
  simp only [hiByte, BitVec.extractLsb'_toNat, Nat.shiftRight_eq_div_pow]
  omega

@[simp] theorem loByte_toNat (v : Half) : (loByte v).toNat = v.toNat % 256 := by simp [loByte]

theorem hiByte_eq (v : Half) : hiByte v = .ofNat 8 (v.toNat / 256) := by
  have := v.isLt
  apply BitVec.eq_of_toNat_eq
  rw [hiByte_toNat, BitVec.toNat_ofNat]
  omega

theorem loByte_eq (v : Half) : loByte v = .ofNat 8 (v.toNat % 256) := by
  apply BitVec.eq_of_toNat_eq
  rw [loByte_toNat, BitVec.toNat_ofNat]
  omega

@[simp] theorem length_storeChecksum (o : Nat) (c : Half) (h : List Byte) : (storeChecksum o c h).length = h.length := by
  simp [storeChecksum]

/-- The bytes of an IP header. -/
@[simp] theorem length_ipHeader (v : IpVer) (src dst : Addr) (p : Proto) :
    (ipHeader v src dst p).length = match v with | .v4 => 20 | .v6 => 40 := by
  cases v <;> simp [ipHeader, ipv4Header, ipv6Header, bytes16]

/-- The bytes of a transport header. -/
@[simp] theorem length_transportHeader (v : IpVer) (p : Proto) (s : State) :
    (transportHeader v p s).length = match p with | .tcp => 20 | .udp => 8 := by
  cases p <;> simp [transportHeader, tcpHeader, udpHeader]

end Sys2Proof.Machine
end

