-- ==== Sys2Proof/Laws/PerInstr.lean ====
section
/-! SUPPORT. Facts about every command as syntax, one lemma per constructor: its word fits 32 bits and begins with its opcode. -/

namespace Sys2Proof

theorem AddrReg.code_lt : ∀ r : AddrReg, r.code < 2 := by intro r; cases r <;> decide
theorem Buf.code_lt : ∀ b : Buf, b.code < 2 := by intro b; cases b <;> decide
theorem Proto.code_lt : ∀ p : Proto, p.code < 2 := by intro p; cases p <;> decide
theorem Channel.code_lt : ∀ c : Channel, c.code < 4 := by intro c; cases c <;> decide

end Sys2Proof

namespace Sys2Proof.Laws.EncodeFits

/-- The word of a well-formed command fits 32 bits, and bits 31:24 of it are the opcode. -/
def Statement (i : Instr) : Prop := i.wf = true → encodeNat i < 2 ^ 32 ∧ encodeNat i / 2 ^ 24 = i.opcode

theorem nop : Statement (.nop) := by
  intro _
  simp only [encodeNat, Instr.opcode]
  omega

theorem setaf (r : AddrReg) (af : BitVec 2) : Statement (.setaf r af) := by
  intro _
  have := af.isLt
  have := AddrReg.code_lt r
  simp only [encodeNat, Instr.opcode]
  omega

theorem setah (r : AddrReg) (idx : Fin 8) (imm16 : Half) : Statement (.setah r idx imm16) := by
  intro _
  have := imm16.isLt
  have := idx.isLt
  have := AddrReg.code_lt r
  simp only [encodeNat, Instr.opcode]
  omega

theorem setsp (imm16 : Half) : Statement (.setsp imm16) := by
  intro _
  have := imm16.isLt
  simp only [encodeNat, Instr.opcode]
  omega

theorem setdp (imm16 : Half) : Statement (.setdp imm16) := by
  intro _
  have := imm16.isLt
  simp only [encodeNat, Instr.opcode]
  omega

theorem setctl (k : BitVec 2) : Statement (.setctl k) := by
  intro _
  have := k.isLt
  simp only [encodeNat, Instr.opcode]
  omega

theorem getr (sel : BitVec 8) : Statement (.getr sel) := by
  intro _
  have := sel.isLt
  simp only [encodeNat, Instr.opcode]
  omega

theorem clrerr : Statement (.clrerr) := by
  intro _
  simp only [encodeNat, Instr.opcode]
  omega

theorem ack : Statement (.ack) := by
  intro _
  simp only [encodeNat, Instr.opcode]
  omega

theorem stb (b : Buf) (off : Nat) (data : Byte) : Statement (.stb b off data) := by
  intro h
  have := data.isLt
  have := Buf.code_lt b
  simp only [Instr.wf, offFits, decide_eq_true_eq, encodeNat, Instr.opcode] at *
  omega

theorem ldb (b : Buf) (off : Nat) : Statement (.ldb b off) := by
  intro h
  have := Buf.code_lt b
  simp only [Instr.wf, offFits, decide_eq_true_eq, encodeNat, Instr.opcode] at *
  omega

theorem setrxlen (len : Nat) : Statement (.setrxlen len) := by
  intro h
  simp only [Instr.wf, lenFits, decide_eq_true_eq, encodeNat, Instr.opcode] at *
  omega

theorem csum (b : Buf) (off : Nat) (len : Nat) : Statement (.csum b off len) := by
  intro h
  have := Buf.code_lt b
  simp only [Instr.wf, offFits, lenFits, Bool.and_eq_true, decide_eq_true_eq, encodeNat, Instr.opcode] at *
  omega

theorem bip4 (p : Proto) : Statement (.bip4 p) := by
  intro _
  have := Proto.code_lt p
  simp only [encodeNat, Instr.opcode]
  omega

theorem bip6 (p : Proto) : Statement (.bip6 p) := by
  intro _
  have := Proto.code_lt p
  simp only [encodeNat, Instr.opcode]
  omega

theorem btcp : Statement (.btcp) := by
  intro _
  simp only [encodeNat, Instr.opcode]
  omega

theorem budp : Statement (.budp) := by
  intro _
  simp only [encodeNat, Instr.opcode]
  omega

theorem build (p : Proto) : Statement (.build p) := by
  intro _
  have := Proto.code_lt p
  simp only [encodeNat, Instr.opcode]
  omega

theorem parse (ch : Channel) : Statement (.parse ch) := by
  intro _
  have := Channel.code_lt ch
  simp only [encodeNat, Instr.opcode]
  omega

theorem classify (ch : Channel) : Statement (.classify ch) := by
  intro _
  have := Channel.code_lt ch
  simp only [encodeNat, Instr.opcode]
  omega

theorem arm (p : Proto) (port : Half) : Statement (.arm p port) := by
  intro _
  have := port.isLt
  have := Proto.code_lt p
  simp only [encodeNat, Instr.opcode]
  omega

theorem setv (p : Proto) (port : Half) (v : BitVec 3) : Statement (.setv p port v) := by
  intro _
  have := port.isLt
  have := v.isLt
  have := Proto.code_lt p
  simp only [encodeNat, Instr.opcode]
  omega

theorem getv (p : Proto) (port : Half) : Statement (.getv p port) := by
  intro _
  have := port.isLt
  have := Proto.code_lt p
  simp only [encodeNat, Instr.opcode]
  omega

theorem clrv : Statement (.clrv) := by
  intro _
  simp only [encodeNat, Instr.opcode]
  omega

end Sys2Proof.Laws.EncodeFits
end

