-- ==== Sys2Proof/Laws/Decode.lean ====
section
/-! SUPPORT. Lemmas about the fields of a word, the codes of the operands and the reserved-field check, for proofs about
decoding and encoding. -/

namespace Sys2Proof

theorem bits_lt (w : Word) (hi lo : Nat) : bits w hi lo < 2 ^ (hi + 1 - lo) := Nat.mod_lt _ (Nat.two_pow_pos _)

/-- A field of an encoded command, as arithmetic on the sum of R71. -/
theorem bits_encode {i : Instr} (h : encodeNat i < 2 ^ 32) (hi lo : Nat) :
    bits (encode i) hi lo = encodeNat i / 2 ^ lo % 2 ^ (hi + 1 - lo) := by
  rw [bits, encode, BitVec.toNat_ofNat, Nat.mod_eq_of_lt h]

/-- A word is the encoding of `i` if it is the number of R71. -/
theorem encode_eq {i : Instr} {w : Word} (h : encodeNat i = w.toNat) : encode i = w := by
  rw [encode, h, BitVec.ofNat_toNat, BitVec.setWidth_eq]

theorem ifReservedZero_of_eq_zero {n : Nat} (h : n = 0) (i : Instr) : ifReservedZero n i = .ok i := if_pos h

/-- The reserved-field check answers a command only if the fields are zero. -/
theorem ifReservedZero_ok {n : Nat} {i j : Instr} (h : ifReservedZero n i = .ok j) : n = 0 ∧ i = j := by
  unfold ifReservedZero at h
  split at h
  · exact ⟨‹_›, Except.ok.inj h⟩
  · cases h

theorem AddrReg.ofCode_eq {r : AddrReg} {n : Nat} (h : n = r.code) : AddrReg.ofCode n = r := by subst h; cases r <;> rfl
theorem Buf.ofCode_eq {b : Buf} {n : Nat} (h : n = b.code) : Buf.ofCode n = b := by subst h; cases b <;> rfl
theorem Proto.ofCode_eq {p : Proto} {n : Nat} (h : n = p.code) : Proto.ofCode n = p := by subst h; cases p <;> rfl
theorem Channel.ofCode_eq {c : Channel} {n : Nat} (h : n = c.code) : Channel.ofCode n = c := by subst h; cases c <;> rfl

theorem AddrReg.code_ofCode {n : Nat} (h : n < 2) : (AddrReg.ofCode n).code = n := by
  interval_cases n <;> rfl
theorem Buf.code_ofCode {n : Nat} (h : n < 2) : (Buf.ofCode n).code = n := by
  interval_cases n <;> rfl
theorem Proto.code_ofCode {n : Nat} (h : n < 2) : (Proto.ofCode n).code = n := by
  interval_cases n <;> rfl
theorem Channel.code_ofCode {n : Nat} (h : n < 4) : (Channel.ofCode n).code = n := by
  interval_cases n <;> rfl

theorem ofNat_eq_of_toNat {k : Nat} {v : BitVec k} {n : Nat} (h : n = v.toNat) : BitVec.ofNat k n = v := by
  rw [h, BitVec.ofNat_toNat, BitVec.setWidth_eq]

theorem fin_ofNat_eq {v : Fin 8} {n : Nat} (h : n = v.val) : Fin.ofNat 8 n = v := by
  subst h; exact Fin.ext (Nat.mod_eq_of_lt v.isLt)

end Sys2Proof
end

