-- ==== Sys2Proof/Laws/Ops.lean ====
section
/-! SUPPORT. What each shared operation answers, and what a byte or an entry of its answer reads as: callers cite these and
unfold no operation. -/

namespace Sys2Proof.Machine

-- The two ways a command ends.

/-- `respond` answers the state with the response and nothing else. -/
theorem respond_next {d : Word} {s t : State} : respond d s = .next t ↔ t = s.answer ⟨0#4, d⟩ := by
  rw [respond, Host.Outcome.next.injEq, eq_comm]

/-- `raise` answers the state with the error record written and the error response. -/
theorem raise_next {e : CmdError} {w : Word} {s t : State} :
    raise e w s = .next t ↔ t = (s.recordError e w).answer ⟨e.code, 0#32⟩ := by
  rw [raise, Host.Outcome.next.injEq, eq_comm]

/-- `raise` in the terms of the claims. -/
theorem raise_eq_raised (e : CmdError) (w : Word) (s : State) : raise e w s = .next (Safety.raised e.code.toNat w s) := by
  cases e <;> rfl

/-- `emit` answers the state with the bytes at the start of TXBUF, their number in TX_LEN and as the response. -/
theorem emit_next {bytes : List Byte} {s t : State} :
    emit bytes s = .next t ↔ t = (s.setTx bytes).answer ⟨0#4, .ofNat 32 bytes.length⟩ := respond_next

/-- The answer of ARM, SETV and GETV. -/
theorem respondVerdict_next {p : Proto} {n : Half} {s t : State} :
    respondVerdict p n s = .next t ↔ t = s.answer ⟨0#4, (s.verdict p n).code.setWidth 32⟩ := respond_next

/-- The last part of CLASSIFY. -/
theorem answerRes_next {r : BitVec 24} {s t : State} :
    answerRes r s = .next t ↔ t = (s.setRes r).answer ⟨0#4, r.setWidth 32⟩ := respond_next

/-- All that CLASSIFY can do from the parse result on: a truncated datagram, one without a candidate, an update, or a candidate
that changes nothing. -/
theorem classifyParsed_cases (r : Parsed) (s : State) :
    (r = .trunc ∧ classifyParsed r s = answerRes (resNone .parseErr) s) ∨
    (r ≠ .trunc ∧ candidate r s.srcPort = none ∧ classifyParsed r s = answerRes (resNone .ignored) s) ∨
    (∃ c, r ≠ .trunc ∧ candidate r s.srcPort = some c ∧ s.verdict c.proto c.port = .pending ∧
      classifyParsed r s = answerRes (resWord .updated c) (s.setEvent c (resWord .updated c))) ∨
    (∃ c o, r ≠ .trunc ∧ candidate r s.srcPort = some c ∧ s.verdict c.proto c.port ≠ .pending ∧
      o = correlateOutcome (s.verdict c.proto c.port) ∧ o ≠ .updated ∧ classifyParsed r s = answerRes (resWord o c) s) := by
  unfold classifyParsed
  by_cases hr : r = .trunc
  · exact .inl ⟨hr, if_pos hr⟩
  · rw [if_neg hr]
    cases hc : candidate r s.srcPort with
    | none => exact .inr (.inl ⟨hr, rfl, rfl⟩)
    | some c =>
      cases hv : s.verdict c.proto c.port with
      | pending => exact .inr (.inr (.inl ⟨c, hr, rfl, hv, by simp [hv, correlateOutcome]⟩))
      | absent => exact .inr (.inr (.inr ⟨c, .noProbe, hr, rfl, by simp [hv], by simp [hv, correlateOutcome], by simp,
          by simp [hv, correlateOutcome]⟩))
      | opened => exact .inr (.inr (.inr ⟨c, .dup, hr, rfl, by simp [hv], by simp [hv, correlateOutcome], by simp,
          by simp [hv, correlateOutcome]⟩))
      | closed => exact .inr (.inr (.inr ⟨c, .dup, hr, rfl, by simp [hv], by simp [hv, correlateOutcome], by simp,
          by simp [hv, correlateOutcome]⟩))
      | filtered => exact .inr (.inr (.inr ⟨c, .dup, hr, rfl, by simp [hv], by simp [hv, correlateOutcome], by simp,
          by simp [hv, correlateOutcome]⟩))

-- One byte of a buffer.

theorem State.readByte_rx (s : State) (a : Nat) : s.readByte .rx a = s.rxbuf.read a := rfl
theorem State.readByte_tx (s : State) (a : Nat) : s.readByte .tx a = s.txbuf.read a := rfl

/-- A byte depends on its buffer alone. -/
theorem State.readByte_congr {s t : State} (htx : t.txbuf = s.txbuf) (hrx : t.rxbuf = s.rxbuf) (b : Buf) (a : Nat) :
    t.readByte b a = s.readByte b a := by
  cases b
  · rw [State.readByte_rx, State.readByte_rx, hrx]
  · rw [State.readByte_tx, State.readByte_tx, htx]

/-- A byte read after one byte was stored. -/
theorem State.readByte_setBuf_write (s : State) (b b' : Buf) (off a : Nat) (v : Byte) :
    (s.setBuf b ((s.buf b).write off v)).readByte b' a = if b' = b ∧ a = off then v else s.readByte b' a := by
  cases b <;> cases b' <;>
    simp [State.setBuf, State.readByte, State.buf, Memory.read_write, eq_comm]

/-- A byte of TXBUF read after a build. -/
theorem State.readByte_setTx (s : State) (bytes : List Byte) (a : Nat) :
    (s.setTx bytes).readByte .tx a = if a < bytes.length then bytes.getD a 0#8 else s.readByte .tx a := by
  rw [State.readByte_tx, State.setTx_txbuf, Memory.read_writeBytes]
  simp [State.readByte_tx]

@[simp] theorem State.readByte_setTx_rx (s : State) (bytes : List Byte) (a : Nat) :
    (s.setTx bytes).readByte .rx a = s.readByte .rx a := rfl

@[simp] theorem State.readByte_answer (s : State) (d : Response) (b : Buf) (a : Nat) :
    (s.answer d).readByte b a = s.readByte b a := by cases b <;> rfl

-- One entry of the verdict table.

@[simp] theorem State.verdict_answer (s : State) (d : Response) (p : Proto) (n : Half) :
    (s.answer d).verdict p n = s.verdict p n := rfl

@[simp] theorem State.verdict_setPr (s : State) (pr : ParseRegs) (p : Proto) (n : Half) :
    (s.setPr pr).verdict p n = s.verdict p n := rfl

@[simp] theorem State.verdict_setRes (s : State) (r : BitVec 24) (p : Proto) (n : Half) :
    (s.setRes r).verdict p n = s.verdict p n := rfl

@[simp] theorem State.verdict_setInput (s : State) (l : List HostEvent) (p : Proto) (n : Half) :
    (s.setInput l).verdict p n = s.verdict p n := rfl

/-- An entry read after a classification event. -/
theorem State.verdict_setEvent (s : State) (c : Candidate) (r : BitVec 24) (q : Proto) (n : Half) :
    (s.setEvent c r).verdict q n = if c.proto = q ∧ c.port = n then c.verdict else s.verdict q n :=
  State.verdict_setVerdict s c.proto q c.port n c.verdict

-- The canonical form of the memories, operation by operation.

theorem State.wf_setBuf_write {s : State} (b : Buf) (off : Nat) (v : Byte) (h : s.txbuf.wf ∧ s.rxbuf.wf) :
    (s.setBuf b ((s.buf b).write off v)).txbuf.wf ∧ (s.setBuf b ((s.buf b).write off v)).rxbuf.wf := by
  cases b
  · exact ⟨h.1, Memory.wf_write h.2 off v⟩
  · exact ⟨Memory.wf_write h.1 off v, h.2⟩

theorem State.wf_setTx {s : State} (bytes : List Byte) (h : s.txbuf.wf) : (s.setTx bytes).txbuf.wf :=
  Memory.wf_writeBytes bytes 0 h

theorem State.wf_setVerdict {s : State} (p : Proto) (n : Half) (v : Verdict) (h : s.vt.wf) : (s.setVerdict p n v).vt.wf :=
  Sparse.wf_set h (vtKey p n) v

/-- The memories of the state after reset are in their canonical form. -/
theorem State.reset_memories_wf : State.reset.txbuf.wf ∧ State.reset.rxbuf.wf ∧ State.reset.vt.wf := by decide

-- One step.

theorem step_nil {s : State} (h : s.input = []) : step s = .next s := by rw [step, h]; rfl

theorem step_command {s : State} {w : Word} {rest : List HostEvent} (h : s.input = .command w :: rest) :
    step s = runWord w (s.setInput rest) := by rw [step, h]; rfl

theorem step_reset {s : State} {rest : List HostEvent} (h : s.input = .reset :: rest) :
    step s = .next (State.afterReset rest) := by rw [step, h]; rfl

theorem runWord_ok {w : Word} {i : Instr} (h : decode w = .ok i) (s : State) : runWord w s = exec i s := by rw [runWord, h]

theorem runWord_error {w : Word} {e : Illegal} (h : decode w = .error e) (s : State) :
    runWord w s = raise .illegal w s := by rw [runWord, h]

end Sys2Proof.Machine
end

