-- ==== Sys2Proof/Laws/Parser.lean ====
section
/-! SUPPORT. All that a parse can answer, and the bounds of what it answers. -/

namespace Sys2Proof.Machine

/-- `need` either truncates or goes on. -/
theorem need_cases (L n : Nat) (k : Parsed) : (L < n ∧ need L n k = .trunc) ∨ (n ≤ L ∧ need L n k = k) := by
  by_cases h : L < n
  · exact .inl ⟨h, if_pos h⟩
  · exact .inr ⟨not_lt.1 h, if_neg h⟩

theorem need_of_le {L n : Nat} (h : n ≤ L) (k : Parsed) : need L n k = k := if_neg (not_lt.2 h)
theorem need_of_lt {L n : Nat} (h : L < n) (k : Parsed) : need L n k = .trunc := if_pos h

theorem headerLen_le (rx : Memory) (i : Nat) : headerLen rx i ≤ 60 := by
  unfold headerLen
  omega

theorem tcp4Offset_le (rx : Memory) (sp : Half) : tcp4Offset rx sp ≤ 60 := by
  unfold tcp4Offset
  split
  · omega
  · exact headerLen_le rx 0

/-- The number two bytes of a buffer are. -/
theorem rx16_toNat (rx : Memory) (i : Nat) : (rx16 rx i).toNat = Safety.half rx i := by
  have := (rx.read (i + 1)).isLt
  simp only [rx16, be16, Safety.half, BitVec.toNat_append]
  rw [Nat.shiftLeft_eq, ← Nat.shiftLeft_eq, ← Nat.shiftLeft_add_eq_or_of_lt this, Nat.shiftLeft_eq]

/-- What a TCP or ICMP parse result can be: its offset is at most 60; an ICMP one has depth 0 (no embedded header looked at), 1 (a
protocol that is not UDP) or 2 (a UDP probe). -/
def Parsed.shape : Parsed → Prop
  | .trunc => True
  | .tcp off _ _ _ => off ≤ 60
  | .icmp _ base _ _ depth eproto esport edport => base ≤ 60 ∧
    ((depth = 0 ∧ eproto = 0#8 ∧ esport = 0#16 ∧ edport = 0#16) ∨
      (depth = 1 ∧ eproto ≠ 17#8 ∧ esport = 0#16 ∧ edport = 0#16) ∨ (depth = 2 ∧ eproto = 17#8))

theorem need_shape {L n : Nat} {k : Parsed} (h : k.shape) : (need L n k).shape := by
  rcases need_cases L n k with ⟨_, e⟩ | ⟨_, e⟩ <;> rw [e]
  · trivial
  · exact h

theorem tcpFields_shape (rx : Memory) (L : Nat) {off : Nat} (h : off ≤ 60) : (tcpFields rx L off).shape := need_shape h

theorem parseIcmp4At_shape (rx : Memory) (L : Nat) {base : Nat} (h : base ≤ 60) : (parseIcmp4At rx L base).shape := by
  refine need_shape ?_
  split
  · exact ⟨h, .inl ⟨rfl, rfl, rfl, rfl⟩⟩
  · refine need_shape ?_
    split
    · exact ⟨h, .inr (.inl ⟨rfl, ‹_›, rfl, rfl⟩)⟩
    · exact need_shape ⟨h, .inr (.inr ⟨rfl, rfl⟩)⟩

theorem parseIcmp6_shape (rx : Memory) (L : Nat) : (parseIcmp6 rx L).shape := by
  refine need_shape ?_
  split
  · exact ⟨by omega, .inl ⟨rfl, rfl, rfl, rfl⟩⟩
  · refine need_shape ?_
    split
    · exact ⟨by omega, .inr (.inl ⟨rfl, ‹_›, rfl, rfl⟩)⟩
    · exact need_shape ⟨by omega, .inr (.inr ⟨rfl, rfl⟩)⟩

/-- Every parse result has this shape. -/
theorem parse_shape (ch : Channel) (rx : Memory) (L : Nat) (sp : Half) (iphdr : Bool) : (parse ch rx L sp iphdr).shape := by
  cases ch
  · exact need_shape (tcpFields_shape rx L (tcp4Offset_le rx sp))
  · exact tcpFields_shape rx L (by omega)
  · show (parseIcmp4 rx L iphdr).shape
    unfold parseIcmp4
    split
    · exact need_shape (parseIcmp4At_shape rx L (headerLen_le rx 0))
    · exact parseIcmp4At_shape rx L (by omega)
  · exact parseIcmp6_shape rx L

end Sys2Proof.Machine
end

