-- ==== Sys2Proof/Laws/Registers.lean ====
section
/-! SUPPORT. The registers and codes as the numbers the claims are stated with: STATUS, the words and bytes of an address, the
codes of verdicts and families, the fields of RES. -/

namespace Sys2Proof.Machine

open Sys2Proof.Safety

/-- `STATUS` as a number. -/
theorem Status.word_toNat (st : Status) : st.word.toNat = statusWord st := by
  obtain ⟨e, c, p⟩ := st
  revert c
  cases e <;> cases p <;> decide

/-- A byte of an address as a number. -/
theorem addrByte_eq (a : Addr) {i : Nat} (h : i < 16) : addrByte a i = (a[i]'h).toNat := by
  simp [addrByte, List.getD, h]

/-- A word of an address as a number. -/
theorem Addr.word_toNat (a : Addr) (k : Fin 4) : (a.word k).toNat = addrWord a k := by
  have hk := k.isLt
  have h2 := (a[4 * k.val + 1]'(by omega)).isLt
  have h3 := (a[4 * k.val + 2]'(by omega)).isLt
  have h4 := (a[4 * k.val + 3]'(by omega)).isLt
  rw [addrWord, addrByte_eq a (by omega), addrByte_eq a (by omega), addrByte_eq a (by omega), addrByte_eq a (by omega)]
  simp only [Addr.word, be32, BitVec.toNat_append]
  rw [← Nat.shiftLeft_add_eq_or_of_lt h2, ← Nat.shiftLeft_add_eq_or_of_lt h3, ← Nat.shiftLeft_add_eq_or_of_lt h4]
  simp only [Nat.shiftLeft_eq]
  omega

/-- A byte of an address after one halfword was written. -/
theorem addrByte_setHalf (a : Addr) (idx : Fin 8) (v : Half) {j : Nat} (h : j < 16) :
    addrByte (a.setHalf idx v) j =
      if j = 2 * idx.val then v.toNat / 256 else if j = 2 * idx.val + 1 then v.toNat % 256 else addrByte a j := by
  rw [addrByte_eq _ h, addrByte_eq _ h]
  simp only [Addr.setHalf, Vector.getElem_set]
  by_cases h1 : j = 2 * idx.val
  · subst h1
    rw [if_neg (by omega), if_pos rfl, if_pos rfl, hiByte_toNat]
  · by_cases h2 : j = 2 * idx.val + 1
    · subst h2
      rw [if_pos rfl, if_neg (by omega), if_pos rfl, loByte_toNat]
    · rw [if_neg (Ne.symm h2), if_neg (Ne.symm h1), if_neg h1, if_neg h2]

theorem Verdict.code_toNat (v : Verdict) : v.code.toNat = verdictCode v := by cases v <;> rfl
theorem AF.code_toNat (f : AF) : f.code.toNat = afCode f := by cases f <;> rfl

/-- The response that carries a verdict code. -/
theorem Verdict.code_setWidth (v : Verdict) : v.code.setWidth 32 = BitVec.ofNat 32 (verdictCode v) := by cases v <;> rfl

/-- A family operand names the family with its code. -/
theorem AF.ofOperand_eq {c : BitVec 2} {f : AF} (h : afCode f = c.toNat) : AF.ofOperand c = some f := by
  have hc : c = BitVec.ofNat 2 (afCode f) := by rw [h, BitVec.ofNat_toNat, BitVec.setWidth_eq]
  subst hc
  cases f <;> rfl

/-- A verdict operand names the terminal verdict with its code. -/
theorem Verdict.ofOperand_eq {c : BitVec 3} {v : Verdict} (h : verdictCode v = c.toNat) (h2 : 2 ≤ c.toNat) :
    Verdict.ofOperand c = some v := by
  have hc : c = BitVec.ofNat 3 (verdictCode v) := by rw [h, BitVec.ofNat_toNat, BitVec.setWidth_eq]
  subst hc
  cases v <;> first | rfl | simp [verdictCode] at h2

/-- `RES` of a candidate as a number. -/
theorem resWord_toNat (o : ClassOutcome) (c : Candidate) :
    (resWord o c).toNat = resNumber o.code.toNat (verdictCode c.verdict) c.proto.code c.port.toNat := by
  have h1 := c.verdict.code.isLt
  have h2 := (Proto.bit c.proto).isLt
  have h3 := c.port.isLt
  have hp : (Proto.bit c.proto).toNat = c.proto.code := by cases c.proto <;> rfl
  simp only [resWord, resNumber, BitVec.toNat_append]
  rw [← Nat.shiftLeft_add_eq_or_of_lt h1, ← Nat.shiftLeft_add_eq_or_of_lt h2, ← Nat.shiftLeft_add_eq_or_of_lt h3, hp,
    Verdict.code_toNat]
  simp only [Nat.shiftLeft_eq]
  omega

/-- The fields of a word of `RES` that is a number of R172. -/
theorem resFields_of_toNat {w : BitVec 24} {o v : Nat} {p : Proto} {n : Half} (hv : v < 8)
    (h : w.toNat = resNumber o v p.code n.toNat) :
    resOutcome w = o ∧ resVerdict w = v ∧ resProto w = p ∧ resPort w = n := by
  have hn := n.isLt
  have hp := Proto.code_lt p
  unfold resNumber at h
  refine ⟨?_, ?_, ?_, ?_⟩
  · rw [resOutcome, BitVec.extractLsb'_toNat, Nat.shiftRight_eq_div_pow, h]
    omega
  · rw [resVerdict, BitVec.extractLsb'_toNat, Nat.shiftRight_eq_div_pow, h]
    omega
  · have hbit : w.toNat / 2 ^ 16 % 2 = p.code := by omega
    rw [resProto, BitVec.getLsbD, Nat.testBit_eq_decide_div_mod_eq, hbit]
    cases p <;> rfl
  · apply BitVec.eq_of_toNat_eq
    rw [resPort, BitVec.extractLsb'_toNat, Nat.shiftRight_eq_div_pow, h]
    omega

/-- The fields of `RES` as CLASSIFY writes it with a candidate. -/
theorem resWord_fields (o : ClassOutcome) (c : Candidate) :
    resOutcome (resWord o c) = o.code.toNat ∧ resVerdict (resWord o c) = verdictCode c.verdict ∧
      resProto (resWord o c) = c.proto ∧ resPort (resWord o c) = c.port :=
  resFields_of_toNat (by cases c.verdict <;> decide) (resWord_toNat o c)

end Sys2Proof.Machine
end

