-- ==== Sys2Proof/Tests/Slice0.lean ====
section
/-! SUPPORT. Tests of the model, one step each, with expected results from spec/95_test_vectors.md (the comment names the vector)
or worked out by hand from a rule; and for each obligation with hypotheses a concrete state and operands that meet them. -/

namespace Sys2Proof.Tests

open Sys2Proof.Machine Sys2Proof.Safety

-- Helpers.

/-- The state after the one step that runs the word. -/
def after (s : State) (w : Word) : State :=
  match step (s.present w) with
  | .next t => t
  | .fault _ => s
  | .refused _ => s

/-- The response of the one step that runs the word, as `(err, data)`. -/
def reply (s : State) (w : Word) : Option (Nat × Nat) := (after s w).resp.map fun d => (d.err.toNat, d.data.toNat)

/-- An address whose first bytes are these. -/
def addr (l : List Byte) : Addr := Vector.ofFn fun i => l.getD i.val 0#8

/-- A state with both tags of one family and the addresses of the vectors, session source port 54321, destination port `dp`. -/
def ctx4 (dp : Half) : State := { State.reset with
  srcAddr := addr [0xC0, 0xA8, 0x01, 0x0A], dstAddr := addr [0xC0, 0xA8, 0x01, 0x01]
  srcAf := .v4, dstAf := .v4, srcPort := 54321#16, dstPort := dp }

/-- As `ctx4`, over IPv6. -/
def ctx6 (dp : Half) : State := { ctx4 dp with
  srcAddr := addr [0x20, 0x01, 0x0D, 0xB8, 0, 0, 0, 0, 0, 0, 0, 0, 0, 0, 0, 1]
  dstAddr := addr [0x20, 0x01, 0x0D, 0xB8, 0, 0, 0, 0, 0, 0, 0, 0, 0, 0, 0, 2]
  srcAf := .v6, dstAf := .v6 }

/-- The first `n` bytes of TXBUF. -/
def txBytes (s : State) (n : Nat) : List Byte := s.txbuf.readBytes 0 n

/-- Datagram A of V7. -/
def datagramA : List Byte :=
  [0x01, 0xBB, 0xD4, 0x31, 0x12, 0x34, 0x56, 0x78, 0, 0, 0, 1, 0x50, 0x12, 0xFF, 0xFF, 0, 0, 0, 0]

/-- Datagram C of V7. -/
def datagramC : List Byte :=
  [3, 3, 0, 0, 0, 0, 0, 0, 0x45, 0, 0, 0x1C, 0, 0, 0, 0, 0x40, 0x11, 0xF7, 0x75, 0xC0, 0xA8, 1, 0x0A, 0xC0, 0xA8, 1, 1,
    0xD4, 0x31, 0, 0x35, 0, 8, 0xA8, 0x1B]

/-- Datagram D of V7. -/
def datagramD : List Byte :=
  [1, 4, 0, 0, 0, 0, 0, 0, 0x60, 0, 0, 0, 0, 8, 0x11, 0x40, 0x20, 1, 0x0D, 0xB8, 0, 0, 0, 0, 0, 0, 0, 0, 0, 0, 0, 1,
    0x20, 1, 0x0D, 0xB8, 0, 0, 0, 0, 0, 0, 0, 0, 0, 0, 0, 2, 0xD4, 0x31, 0, 0x35, 0, 8, 0xD0, 2]

/-- Reset, session source port 54321, the first `n` bytes of a datagram in RXBUF, TCP 443 and UDP 53 armed. -/
def armed (l : List Byte) (n : Nat) : State := { State.reset with
  srcPort := 54321#16, rxbuf := Memory.writeBytes [] 0 l, rxLen := .ofNat 12 n
  vt := [(443, .pending), (65589, .pending)] }

/-- The state in which the host presents these words next. -/
def presents (s : State) (l : List Word) : State := s.setInput (l.map .command)

-- Well-formedness: each check refuses an ill-formed term.

theorem test_wf_refuses_stb_offset : (Instr.stb .rx 2048 0).wf = false := by decide
theorem test_wf_refuses_ldb_offset : (Instr.ldb .tx 2048).wf = false := by decide
theorem test_wf_refuses_setrxlen_length : (Instr.setrxlen 4096).wf = false := by decide
theorem test_wf_refuses_csum_offset : (Instr.csum .rx 2048 0).wf = false := by decide
theorem test_wf_refuses_csum_length : (Instr.csum .rx 0 4096).wf = false := by decide

-- Decoding: for every command a word written out from the spec (V1, V2, V4 to V9, P1 to P4; SETAH, LDB: R61).

theorem test_decode_nop : decode 0x00000000#32 = .ok .nop := by decide
theorem test_decode_setaf : decode 0x01800002#32 = .ok (.setaf .dst 2#2) := by decide
theorem test_decode_setah : decode 0x0287FFFF#32 = .ok (.setah .dst 7 0xFFFF#16) := by decide
theorem test_decode_setsp : decode 0x0300D431#32 = .ok (.setsp 54321#16) := by decide
theorem test_decode_setdp : decode 0x0400FFFF#32 = .ok (.setdp 65535#16) := by decide
theorem test_decode_setctl : decode 0x05000003#32 = .ok (.setctl 3#2) := by decide
theorem test_decode_getr : decode 0x06000027#32 = .ok (.getr 0x27#8) := by decide
theorem test_decode_clrerr : decode 0x07000000#32 = .ok .clrerr := by decide
theorem test_decode_ack : decode 0x08000000#32 = .ok .ack := by decide
theorem test_decode_stb : decode 0x10803FAA#32 = .ok (.stb .tx 63 0xAA#8) := by decide
theorem test_decode_ldb : decode 0x1107FF00#32 = .ok (.ldb .rx 2047) := by decide
theorem test_decode_setrxlen : decode 0x12000801#32 = .ok (.setrxlen 2049) := by decide
theorem test_decode_csum : decode 0x20814020#32 = .ok (.csum .tx 20 32) := by decide
theorem test_decode_bip4 : decode 0x30000001#32 = .ok (.bip4 .udp) := by decide
theorem test_decode_bip6 : decode 0x31000000#32 = .ok (.bip6 .tcp) := by decide
theorem test_decode_btcp : decode 0x32000000#32 = .ok .btcp := by decide
theorem test_decode_budp : decode 0x33000000#32 = .ok .budp := by decide
theorem test_decode_build : decode 0x34000001#32 = .ok (.build .udp) := by decide
theorem test_decode_parse : decode 0x40000003#32 = .ok (.parse .icmp6) := by decide
theorem test_decode_classify : decode 0x41000001#32 = .ok (.classify .tcp6) := by decide
theorem test_decode_arm : decode 0x5001FFFF#32 = .ok (.arm .udp 65535#16) := by decide
theorem test_decode_setv : decode 0x510BFFFF#32 = .ok (.setv .udp 65535#16 5#3) := by decide
theorem test_decode_getv : decode 0x52000016#32 = .ok (.getv .tcp 22#16) := by decide
theorem test_decode_clrv : decode 0x53000000#32 = .ok .clrv := by decide

/-- The illegal words of V1 with a listed opcode. -/
theorem test_decode_refuses_reserved_bits : [0x00000001#32, 0x01000004, 0x01400001, 0x02080000, 0x03010000, 0x05000004,
    0x06000100, 0x07000001].map decode = List.replicate 8 (.error .reservedBit) := by decide
theorem test_decode_refuses_more_reserved_bits : [0x10080000#32, 0x11800A01, 0x12001000, 0x30000002, 0x32000001, 0x40000004,
    0x50020000, 0x51100000, 0x53000001].map decode = List.replicate 9 (.error .reservedBit) := by decide

/-- The illegal words of V1 without one. -/
theorem test_decode_refuses_unknown_opcodes : [0x09000000#32, 0x0F000000, 0x54000000, 0xFFFFFFFF, 0x0BADC0DE].map decode =
    List.replicate 5 (.error .unknownOpcode) := by decide

theorem test_decodeTableWord_csum : decodeTableWord 32 0x2083F002 = some (.csum .tx 63 2) := by decide
theorem test_decodeTableWord_cuts : decodeTableWord 32 0x153000000 = some .clrv := by decide

-- Context, control and buffer commands (V1, V2, V10).

theorem test_nop : reply State.reset 0x00000000 = some (0, 0) := by decide
theorem test_setaf : (after State.reset 0x01800002).dstAf = .v6 ∧ (after State.reset 0x01800002).srcAf = .none := by decide
theorem test_setaf_code3 : reply State.reset 0x01000003 = some (2, 0) ∧
    (after State.reset 0x01000003).status.word = 0x021 ∧ (after State.reset 0x01000003).errCmd = 0x01000003 := by decide
theorem test_setah : (addrByte (after State.reset 0x0207BEEF).srcAddr 14, addrByte (after State.reset 0x0207BEEF).srcAddr 15,
    addrByte (after State.reset 0x0207BEEF).dstAddr 14) = (0xBE, 0xEF, 0) := by decide
theorem test_setsp : (after State.reset 0x0300D431).srcPort = 54321#16 := by decide
theorem test_setdp : (after State.reset 0x0400FFFF).dstPort = 65535#16 := by decide
theorem test_setctl : (after State.reset 0x05000003).ctrl = 3#2 := by decide
theorem test_getr_address_words : [0x06000020, 0x06000024, 0x06000027].map (reply (ctx6 0)) =
    [some (0, 0x20010DB8), some (0, 0x20010DB8), some (0, 2)] := by decide
theorem test_getr_unpopulated : [0x06000013, 0x06000014, 0x06000027, 0x06000028].map (reply State.reset) =
    [some (0, 0), some (2, 0), some (0, 0), some (2, 0)] := by decide
theorem test_clrerr : (after { State.reset with status := ⟨true, 3#4, true⟩, errCmd := 0x2083F002 } 0x07000000).status.word =
    0x100 ∧ (after { State.reset with status := ⟨true, 3#4, true⟩, errCmd := 0x2083F002 } 0x07000000).errCmd = 0 := by decide
theorem test_ack : (after { State.reset with ctrl := 1, evt := 0x1401BB, status := ⟨false, 0#4, true⟩ } 0x08000000).irq =
    false ∧ (after { State.reset with ctrl := 1, evt := 0x1401BB, status := ⟨false, 0#4, true⟩ } 0x08000000).evt =
    0x1401BB := by decide
theorem test_stb : (after State.reset 0x10803FAA).readByte .tx 63 = 0xAA ∧ (after State.reset 0x10803FAA).txLen = 0 ∧
    (after State.reset 0x10803FAA).readByte .rx 63 = 0 := by decide
theorem test_stb_range : [0x10804000, 0x1087FF00, 0x1007FF55].map (reply State.reset) =
    [some (3, 0), some (3, 0), some (0, 0)] := by decide
theorem test_ldb : reply { State.reset with rxbuf := [(2047, 0x55)] } 0x1107FF00 = some (0, 0x55) := by decide
theorem test_ldb_range : reply State.reset 0x11804000 = some (3, 0) := by decide
theorem test_setrxlen : (after State.reset 0x12000800).rxLen = 0x800 := by decide
theorem test_setrxlen_range : reply State.reset 0x12000801 = some (3, 0) := by decide

-- The first error is kept, and commands go on running (V2, V10).

theorem test_first_error_is_kept : (after { State.reset with status := ⟨true, 1#4, false⟩, errCmd := 0x0BADC0DE }
    0x10804000).errCmd = 0x0BADC0DE ∧ reply { State.reset with status := ⟨true, 1#4, false⟩, errCmd := 0x0BADC0DE }
    0x10804000 = some (3, 0) := by decide

-- The checksum unit (V3; the last but one row of V5).

theorem test_acc : [[], [0x01], [0x12, 0x34, 0x56], [0xFF, 0xFF, 0xFF, 0xFF, 0x00, 0x01],
    [0x00, 0x01, 0xF2, 0x03, 0xF4, 0xF5, 0xF6, 0xF7]].map acc = [0, 0x100, 0x6834, 0x1FFFF, 0x2DDF0] := by decide
theorem test_csum_function : [[], [0xAB], [0x12, 0x34, 0x56], [0x34, 0x12, 0x00, 0x56], [0x00, 0xFF]].map csum =
    [some 0xFFFF, some 0x54FF, some 0x97CB, some 0xCB97, some 0xFF00] := by decide +kernel
theorem test_csum_function_carries : [[0x80, 0x00, 0x80, 0x00], [0xFF, 0xFF, 0xFF, 0xFF, 0x00, 0x01],
    [0x00, 0x01, 0xF2, 0x03, 0xF4, 0xF5, 0xF6, 0xF7]].map csum = [some 0xFFFE, some 0xFFFE, some 0x220D] := by decide +kernel
/-- One byte more than `csum` takes (R103, U5), and the most it takes. -/
theorem test_csum_domain : csum (List.replicate 131073 0x00#8) = none ∧ (csum (List.replicate 131072 0x00#8)).isSome = true :=
  ⟨csum_eq_none_iff.2 (by rw [List.length_replicate]; decide), csum_isSome List.length_replicate.le⟩
theorem test_fold : [0, 1, 0xFFFF, 0x10000, 0x1FFFF, 0x1FFFE, 0x2DDF0, 0xFFFF0000, 0xFFFFFFFF].map fold =
    [0, 1, 0xFFFF, 1, 1, 0xFFFF, 0xDDF2, 0xFFFF, 0xFFFF] := by decide +kernel
theorem test_csum : reply { State.reset with txbuf := [(0, 0x99), (1, 0x12), (2, 0x34), (3, 0x56)] } 0x20801003 =
    some (0, 0x97CB) ∧ (after { State.reset with txbuf := [(0, 0x99), (1, 0x12), (2, 0x34), (3, 0x56)] } 0x20801003).csAcc =
    0x6834 := by decide +kernel
theorem test_csum_range : [0x207FF001, 0x20FFFFFF, 0x20840000, 0x20840001, 0x20841000, 0x20001800].map (reply State.reset) =
    [some (0, 0xFFFF), some (3, 0), some (0, 0xFFFF), some (3, 0), some (3, 0), some (3, 0)] := by decide +kernel

-- The codecs (V4, V5). A step of BIP4 or BUILD over IPv4 writes bytes that depend on the opaque IPV4_ID, so the header is tested
-- as a function of it.

theorem test_ipv4_header_tcp : ipv4Header 0x0000 #v[0xC0, 0xA8, 0x01, 0x0A] #v[0xC0, 0xA8, 0x01, 0x01] .tcp =
    [0x45, 0x00, 0x00, 0x28, 0x00, 0x00, 0x00, 0x00, 0x40, 0x06, 0xF7, 0x74, 0xC0, 0xA8, 0x01, 0x0A, 0xC0, 0xA8, 0x01, 0x01] := by
  decide +kernel
theorem test_ipv4_header_udp : ipv4Header 0x3039 #v[0xC0, 0xA8, 0x01, 0x0A] #v[0xC0, 0xA8, 0x01, 0x01] .udp =
    [0x45, 0x00, 0x00, 0x1C, 0x30, 0x39, 0x00, 0x00, 0x40, 0x11, 0xC7, 0x3C, 0xC0, 0xA8, 0x01, 0x0A, 0xC0, 0xA8, 0x01, 0x01] := by
  decide +kernel
theorem test_bip4_tags : [reply State.reset 0x30000001, reply (ctx6 0) 0x30000000] = [some (4, 0), some (4, 0)] := by decide
theorem test_bip6 : reply (ctx6 0) 0x31000001 = some (0, 40) ∧ (txBytes (after (ctx6 0) 0x31000001) 9, (after (ctx6 0)
    0x31000001).readByte .tx 39, (after (ctx6 0) 0x31000001).readByte .tx 40) =
    ([0x60, 0, 0, 0, 0, 0x08, 0x11, 0x40, 0x20], 0x02, 0x00) := by decide +kernel
theorem test_bip6_tags : reply (ctx4 0) 0x31000000 = some (4, 0) := by decide
theorem test_btcp : txBytes (after (ctx4 443) 0x32000000) 20 =
    [0xD4, 0x31, 0x01, 0xBB, 0, 0, 0, 0, 0, 0, 0, 0, 0x50, 0x02, 0x04, 0x00, 0x52, 0x9A, 0x00, 0x00] := by decide +kernel
theorem test_btcp_v6 : (txBytes (after (ctx6 443) 0x32000000) 20).drop 16 = [0x7A, 0x81, 0x00, 0x00] := by decide +kernel
theorem test_budp : txBytes (after (ctx4 53) 0x33000000) 8 = [0xD4, 0x31, 0x00, 0x35, 0x00, 0x08, 0xA8, 0x1B] := by
  decide +kernel
/-- A computed checksum of 0x0000 is stored as it is (R140). -/
theorem test_budp_zero_checksum : txBytes (after { State.reset with srcAf := .v4, dstAf := .v4, srcPort := 0xFFDE }
    0x33000000) 8 = [0xFF, 0xDE, 0x00, 0x00, 0x00, 0x08, 0x00, 0x00] := by decide +kernel
theorem test_build_v6_udp : reply (ctx6 53) 0x34000001 = some (0, 48) ∧ (txBytes (after (ctx6 53) 0x34000001) 48).drop 38 =
    [0x00, 0x02, 0xD4, 0x31, 0x00, 0x35, 0x00, 0x08, 0xD0, 0x02] := by decide +kernel
theorem test_build_tags : [reply { State.reset with dstAf := .v4 } 0x34000000, reply { State.reset with srcAf := .v6, dstAf
    := .v4 } 0x34000001, reply { State.reset with srcAf := .v4, dstAf := .v6 } 0x34000000] =
    [some (4, 0), some (4, 0), some (4, 0)] := by decide

-- The parser and the classifier (V7).

theorem test_parse_tcp4 : (after (armed datagramA 20) 0x40000000).pr = ⟨0x001, 0, 0x01BBD431, 0x12, 0, 0, 0⟩ := by decide
theorem test_parse_icmp : (after (armed datagramC 36) 0x40000002).pr = ⟨0x222, 0, 0, 0, 0x0303, 0x11, 0xD4310035⟩ ∧
    (after (armed datagramD 56) 0x40000003).pr = ⟨0x233, 0, 0, 0, 0x0104, 0x11, 0xD4310035⟩ := by decide
theorem test_classify_updates : reply (armed datagramA 14) 0x41000000 = some (0, 0x1401BB) ∧
    (after (armed datagramA 14) 0x41000000).verdict .tcp 443 = .opened ∧
    (after (armed datagramA 14) 0x41000000).status.word = 0x100 := by decide
theorem test_classify_others : [reply (armed datagramA 13) 0x41000000, reply (armed (datagramA.set 13 0x52) 20) 0x41000000,
    reply (armed (datagramA.set 3 0x30) 20) 0x41000000, reply { armed datagramA 20 with vt := [(443, .opened)] } 0x41000000,
    reply { armed datagramA 20 with vt := [] } 0x41000001, reply (armed datagramC 32) 0x41000002,
    reply (armed datagramD 51) 0x41000003] = [some (0, 0x500000), some (0, 0x400000), some (0, 0x400000), some (0, 0x2401BB),
    some (0, 0x3401BB), some (0, 0x170035), some (0, 0x500000)] := by decide

-- The verdict table (V9).

theorem test_arm : [reply State.reset 0x50000016, reply { State.reset with vt := [(22, .filtered)] } 0x50000016,
    reply { State.reset with vt := [(22, .filtered)] } 0x50010016] = [some (0, 1), some (0, 4), some (0, 1)] := by decide
theorem test_setv : [reply State.reset 0x51040016, reply { State.reset with vt := [(22, .pending)] } 0x51080016,
    reply { State.reset with vt := [(22, .filtered)] } 0x51040016] = [some (0, 0), some (0, 4), some (0, 4)] := by decide
theorem test_setv_operand : [reply State.reset 0x5103FFFF, reply State.reset 0x510BFFFF] = [some (2, 0), some (2, 0)] := by
  decide
theorem test_getv : [reply { State.reset with vt := [(131071, .pending)] } 0x5201FFFF, reply { State.reset with vt :=
    [(131071, .pending)] } 0x5200FFFF] = [some (0, 1), some (0, 0)] := by decide
theorem test_clrv : (after { State.reset with vt := [(22, .opened)], evt := 0x140016, status := ⟨true, 2#4, true⟩ }
    0x53000000).verdict .tcp 22 = .absent ∧ (after { State.reset with vt := [(22, .opened)], evt := 0x140016, status :=
    ⟨true, 2#4, true⟩ } 0x53000000).status.word = 0x021 := by decide

-- Witnesses: for each obligation with hypotheses, concrete values that meet them, clause by clause at the boundaries.

theorem witness_DecodeOfEncodeIsTheCommand : (Instr.csum .tx 2047 4095).wf = true ∧ (Instr.stb .rx 2047 0xFF).wf = true ∧
    (Instr.setrxlen 4095).wf = true := by decide

theorem witness_EncodeOfDecodeIsTheWord : decode 0x20FFFFFF#32 = .ok (.csum .tx 2047 4095) := by decide

theorem witness_OpcodeMapIsTheDecoder : ⟨"SETAF", 0x01000000, 0xFF7FFFFC⟩ ∈ opcodeMap ∧
    (⟨"SETAF", 0x01000000, 0xFF7FFFFC⟩ : OpcodeRow).covers 0x01800003 = true ∧
    (⟨"SETAF", 0x01000000, 0xFF7FFFFC⟩ : OpcodeRow).covers 0x01000004 = false := by decide

theorem witness_IllegalWordRaisesErrIllegal : (presents State.reset [0x01000004, 0]).input = .command 0x01000004 ::
    [.command 0] ∧ (∀ row ∈ opcodeMap, row.covers 0x01000004 = false) ∧ (∀ row ∈ opcodeMap, row.covers 0x54000000 = false) ∧
    reservedBitSet 0x01000004 ∧ reservedBitSet 0x11000001 ∧ opcodeUnlisted 0x54000000 ∧ ¬reservedBitSet 0x54000000 := by
  unfold reservedBitSet opcodeUnlisted
  decide +kernel

theorem witness_StepRunsThePresentedCommand : (presents State.reset [0x07000000, 0]).input = .command 0x07000000 ::
    [.command 0] ∧ decode 0x07000000#32 = .ok .clrerr ∧ (State.reset.setInput [.reset, .command 0]).input = .reset ::
    [.command 0] ∧ State.reset.input = [] := by decide

theorem witness_ResetValues : (0 < 16 ∧ 15 < 16) ∧ addrByte State.reset.dstAddr 15 = 0 := by decide

/-- A state in the middle of a session, with an error recorded, an event pending and data in every component. -/
def busy : State := { armed datagramA 20 with
  ctrl := 1, status := ⟨true, 3#4, true⟩, errCmd := 0x10804000, txLen := 40, csAcc := 0x6834, csRes := 0x97CB
  pr := ⟨0x222, 0, 0, 0, 0x0303, 0x11, 0xD4310035⟩, res := 0x270035, evt := 0x170035
  txbuf := [(0, 0x45), (63, 1)], vt := [(443, .pending), (65589, .closed)], input := [.command 0x41000000, .reset] }

theorem witness_StepKeepsTheInvariant : EngineInv busy ∧ ∃ t, step busy = .next t := by
  refine ⟨⟨by decide, by decide, by decide, by decide, by decide, by decide, by decide, .inr ⟨by decide, by decide +kernel⟩,
    ⟨by decide, by decide, by decide, by decide, by decide, by decide, by decide, by decide, by decide⟩,
    .inr (.inl (by decide)), .inr ⟨.inr (.inl (by decide)), by decide⟩, by decide, by decide⟩, _, rfl⟩

theorem witness_EveryCommandIsAnsweredWithItsErrorCode : busy.input = .command 0x41000000 :: [.reset] ∧
    decode 0x41000000#32 = .ok (.classify .tcp4) ∧ decode 0x54000000#32 = .error .unknownOpcode ∧
    ((after State.reset 0x10804000).resp.map (·.err) = some 3#4) := by decide

theorem witness_RaiseWritesOnlyTheErrorRecord : (presents State.reset [0x10804000]).input = .command 0x10804000 :: [] ∧
    ∃ t, step (presents State.reset [0x10804000]) = .next t ∧ t.resp = some ⟨3#4, 0#32⟩ ∧ (3#4 : BitVec 4) ≠ 0#4 :=
  ⟨rfl, _, rfl, rfl, by decide⟩

/-- Every clause of the write matrix: completing and raising commands, a byte of the address, of the buffer and of the packet
that is not named, an outcome that is not OC_UPDATED and one that is, another entry of the table. -/
theorem witness_WriteMatrix : (∃ t, exec (.setah .src 7 0xBEEF) busy = .next t ∧ t.resp = some ⟨0#4, 0#32⟩ ∧ (13 : Nat) ≠ 14) ∧
    (∃ t, exec (.stb .tx 63 0xAA) busy = .next t ∧ t.resp = some ⟨0#4, 0#32⟩ ∧ ¬(Buf.rx = Buf.tx ∧ 63 = 63)) ∧
    (∃ t, exec (.stb .tx 64 0) State.reset = .next t ∧ t.resp = some ⟨3#4, 0#32⟩) ∧
    (∃ t, exec .budp (ctx4 53) = .next t ∧ t.txLen.toNat ≤ 8) ∧
    (∃ t, exec (.classify .tcp4) busy = .next t ∧ resOutcome t.res = 1 ∧ ¬(Proto.udp = resProto t.res ∧ 443 = resPort t.res)) ∧
    (∃ t, exec (.classify .tcp6) State.reset = .next t ∧ resOutcome t.res ≠ 1) ∧
    ∃ t, exec (.arm .tcp 443) State.reset = .next t ∧ ¬(Proto.udp = Proto.tcp ∧ (443 : Half) = 443) := by
  refine ⟨⟨_, rfl, rfl, by decide⟩, ⟨_, rfl, rfl, by decide⟩, ⟨_, rfl, rfl⟩, ⟨_, rfl, by decide +kernel⟩,
    ⟨_, rfl, by decide, by decide⟩, ⟨_, rfl, by decide⟩, ⟨_, rfl, by decide⟩⟩

theorem witness_NoErrorAtTheEndMeansNoCommandRaised : 2 ≤ (presents State.reset [0, 0x0300D431]).input.length ∧
    (∀ e ∈ (presents State.reset [0, 0x0300D431]).input.take 2, e ≠ .reset ∧ e ≠ .command 0x07000000#32) ∧
    ∃ t, Sys2Proof.core.run 2 (presents State.reset [0, 0x0300D431]) = .next t ∧ t.status.err = false ∧ 1 < 2 :=
  ⟨by decide, by decide, _, rfl, rfl, by decide⟩

theorem witness_EventPendingAndIrq : (∃ t, exec .ack busy = .next t) ∧ (∃ t, exec .clrv busy = .next t) ∧
    (∃ t, exec (.classify .tcp4) busy = .next t ∧ resOutcome t.res = 1) ∧ ∃ t, exec .nop busy = .next t :=
  ⟨⟨_, rfl⟩, ⟨_, rfl⟩, ⟨_, rfl, by decide⟩, ⟨_, rfl⟩⟩

theorem witness_StoredByteIsReadByTheNextCommand : 2047 < capacity .rx ∧ 63 < capacity .tx ∧
    (presents State.reset [0x10803FAA, 0x11803F00, 0]).input = .command (.ofNat 32 (0x10000000 + Buf.code .tx * 2 ^ 23 +
    63 * 2 ^ 8 + (0xAA : Byte).toNat)) :: .command (.ofNat 32 (0x11000000 + Buf.code .tx * 2 ^ 23 + 63 * 2 ^ 8)) ::
    [.command 0] := by decide

theorem witness_SetafWritesTheTagOrRaises : (3#2 : BitVec 2) = 3#2 ∧ afCode .none = (0#2).toNat ∧ afCode .v6 = (2#2).toNat := by
  decide

theorem witness_SetahWritesTwoBytes : (15 : Nat) < 16 ∧ AddrReg.dst ≠ AddrReg.src := by decide

theorem witness_GetrReadsTheSelectedRegister : ((0x13#8).toNat, 0x170035) ∈ registerValues busy ∧
    ((0x27#8).toNat, 2) ∈ registerValues (ctx6 0) ∧ (0x14 ≤ (0x14#8).toNat ∧ (0x14#8).toNat ≤ 0x1F) ∧
    (0x14 ≤ (0x1F#8).toNat ∧ (0x1F#8).toNat ≤ 0x1F) ∧ 0x28 ≤ (0x28#8).toNat ∧ 0x28 ≤ (0xFF#8).toNat := by decide

theorem witness_StbStoresOneByte : 2047 < 2048 ∧ 2047 < capacity .rx ∧ 63 < capacity .tx ∧ capacity .tx ≤ 64 ∧
    capacity .tx ≤ 2047 := by decide

theorem witness_LdbAnswersTheByte : 2047 < 2048 ∧ 2047 < capacity .rx ∧ 63 < capacity .tx ∧ capacity .tx ≤ 64 ∧
    capacity .tx ≤ 2047 := by decide

theorem witness_SetrxlenDeclaresTheLength : (4095 < 4096 ∧ 2049 < 4096) ∧ 0 ≤ 2048 ∧ 2048 ≤ 2048 ∧ 2048 < 2049 := by decide

theorem witness_FoldAddsTheHighBits : 65536 ≤ 65536 ∧ 0xFFFFFFFF < 2 ^ 32 ∧ 0x1FFFE = 0xFFFFFFFF % 65536 + 0xFFFFFFFF / 65536 := by
  decide

theorem witness_ChecksumLaws : 0 < 1 ∧ (List.replicate 131072 0xFF#8).length ≤ 131072 ∧
    (List.replicate 131071 0xFF#8).length + 1 ≤ 131072 ∧
    ((List.replicate 131070 0xFF#8).length + 2 ≤ 131072 ∧ (List.replicate 131070 0xFF#8).length % 2 = 0) ∧
    (words [0x12, 0x34, 0xAB, 0xCD]).Perm (words [0xAB, 0xCD, 0x12, 0x34]) ∧
    ([0x01#8, 0x02].length % 2 = 0 ∧ [0x01#8, 0x02].length + 2 + [0x03#8].length ≤ 131072 ∧ (0x00#8 : Byte) ≠ 0xFF) := by
  simp only [List.length_replicate]
  decide

theorem witness_StoredChecksumVerifies : ([] : List Byte).length % 2 = 0 ∧ [0xFF#8, 0xFF].length % 2 = 0 ∧ 0 % 2 = 0 ∧
    0 + 1 < [0xFF#8, 0xFF].length ∧ ([] : List Byte).length + [0xFF#8, 0xFF].length ≤ 131072 ∧
    [0x00#8, 0x00] = ([0xFF#8, 0xFF].set 0 0x00#8).set (0 + 1) 0x00#8 := by decide

theorem witness_WordsAndChecksumOfASequence : 2 * 0 + 1 < [0x12#8, 0x34, 0x56].length ∧ [0x12#8, 0x34, 0x56].length = 2 * 1 + 1 ∧
    (List.replicate 131072 0xFF#8).length ≤ 131072 := ⟨by decide, by decide, List.length_replicate.le⟩

theorem witness_AccumulatorNeverOverflows : (List.replicate 2048 0xFF#8).length ≤ 2048 ∧
    (List.replicate 131072 0xFF#8).length ≤ 131072 := ⟨List.length_replicate.le, List.length_replicate.le⟩

theorem witness_CsumSumsTheRegion : (2047 < 2048 ∧ 4095 < 4096 ∧ 2048 < 4096) ∧ 64 + 0 ≤ capacity .tx ∧ 2047 + 1 ≤ capacity .rx ∧
    capacity .tx < 65 + 0 ∧ capacity .rx < 1 + 2048 := by decide

theorem witness_IpHeaderBytes : ∃ h : Half → List Byte, ∀ c, h c = [0x45#8, 0x00#8, 0x00#8, if Proto.tcp = .tcp then 0x28#8 else 0x1C#8,
      .ofNat 8 ((0x3039#16).toNat / 256), .ofNat 8 ((0x3039#16).toNat % 256), 0x00#8, 0x00#8, 0x40#8,
      if Proto.tcp = .tcp then 0x06#8 else 0x11#8, .ofNat 8 (c.toNat / 256), .ofNat 8 (c.toNat % 256)] ++
      #v[0xC0#8, 0xA8, 0x01, 0x0A].toList ++ #v[0xC0#8, 0xA8, 0x01, 0x01].toList := ⟨_, fun _ => rfl⟩

theorem witness_TransportHeaderBytes : ∃ h : Half → List Byte, ∀ c, h c = [.ofNat 8 ((0xD431#16).toNat / 256), .ofNat 8 ((0xD431#16).toNat % 256),
      .ofNat 8 ((53#16).toNat / 256), .ofNat 8 ((53#16).toNat % 256), 0x00#8, 0x08#8, .ofNat 8 (c.toNat / 256),
      .ofNat 8 (c.toNat % 256)] := ⟨_, fun _ => rfl⟩

theorem witness_Bip4BuildsTheHeader : familyIs (ctx4 443) .v4 ∧ ¬familyIs (ctx6 443) .v4 ∧
    ¬familyIs { ctx4 443 with srcAf := .none } .v4 ∧ (19 < 20 ∧ ¬20 < 20) :=
  ⟨⟨rfl, rfl⟩, (fun h => nomatch h.1), (fun h => nomatch h.1), by decide⟩

theorem witness_Bip6BuildsTheHeader : familyIs (ctx6 443) .v6 ∧ ¬familyIs (ctx4 443) .v6 ∧
    ¬familyIs { ctx6 443 with dstAf := .none } .v6 ∧ (39 < 40 ∧ ¬40 < 40) :=
  ⟨⟨rfl, rfl⟩, (fun h => nomatch h.1), (fun h => nomatch h.2), by decide⟩

theorem witness_BtcpBudpBuildTheHeader : familyIs (ctx4 53) .v4 ∧ familyIs (ctx6 53) .v6 ∧
    (∀ v, ¬familyIs { ctx4 53 with dstAf := .v6 } v) ∧ ∃ ph : IpVer → Proto → PseudoHeader, ∀ p,
      ph .v4 p = pseudo4 (firstFour (ctx4 53).srcAddr) (firstFour (ctx4 53).dstAddr) p ∧
      ph .v6 p = pseudo6 (ctx4 53).srcAddr (ctx4 53).dstAddr p := by
  refine ⟨⟨rfl, rfl⟩, ⟨rfl, rfl⟩, fun v h => ?_, fun v p => pseudo v (ctx4 53).srcAddr (ctx4 53).dstAddr p,
    fun _ => ⟨rfl, rfl⟩⟩
  cases v
  · exact nomatch h.2
  · exact nomatch h.1

theorem witness_BuildLaysOutThePacket : familyIs (ctx4 53) .v4 ∧ familyIs (ctx6 53) .v6 ∧ (∀ v, ¬familyIs State.reset v) ∧
    ∃ (src4 dst4 : Vector Byte 4) (src16 dst16 : Vector Byte 16) (pkt : IpVer → List Byte) (n : IpVer → Nat),
      src4 = firstFour (ctx6 53).srcAddr ∧ dst4 = firstFour (ctx6 53).dstAddr ∧ src16 = (ctx6 53).srcAddr ∧
      dst16 = (ctx6 53).dstAddr ∧
      pkt .v4 = ipv4Header Config.ipv4Id src4 dst4 .udp ++ udpHeader (pseudo4 src4 dst4 .udp) (ctx6 53).srcPort (ctx6 53).dstPort ∧
      pkt .v6 = ipv6Header src16 dst16 .udp ++ udpHeader (pseudo6 src16 dst16 .udp) (ctx6 53).srcPort (ctx6 53).dstPort ∧
      n .v4 = (if Proto.udp = .tcp then 40 else 28) ∧ n .v6 = (if Proto.udp = .tcp then 60 else 48) := by
  refine ⟨⟨rfl, rfl⟩, ⟨rfl, rfl⟩, fun v h => ?_, _, _, _, _, fun v => packet v .udp (ctx6 53),
    fun v => (match v with | .v4 => 28 | .v6 => 48), rfl, rfl, rfl, rfl, rfl, rfl, rfl, rfl⟩
  cases v <;> exact nomatch h.1

theorem witness_BuildIsIpHeaderThenTransportHeader : familyIs (ctx4 443) .v4 ∧ familyIs (ctx6 443) .v6 :=
  ⟨⟨rfl, rfl⟩, ⟨rfl, rfl⟩⟩

/-- Two states with one context and different contents elsewhere; the build of the second family raises in both. -/
theorem witness_BuildsDependOnTheContextAlone : (Instr.build .udp = .bip4 .udp ∨ Instr.build .udp = .bip6 .udp ∨
    Instr.build .udp = .btcp ∨ Instr.build .udp = .budp ∨ Instr.build .udp = .build .udp) ∧
    ({ ctx6 53 with txbuf := [(63, 1)], csRes := 5, vt := [(1, .pending)] } : State).srcAddr = (ctx6 53).srcAddr ∧
    ({ ctx6 53 with txbuf := [(63, 1)], csRes := 5, vt := [(1, .pending)] } : State) ≠ ctx6 53 ∧
    errorCause (ctx6 53) (.build .udp) = 0 ∧ errorCause (ctx6 53) (.bip4 .udp) = 4 := by decide

/-- TCP4 with the header at 0, TCP4 behind an IPv4 header whose nibble says 4 bytes, TCP6; 13 and 14 bytes from the header on. -/
theorem witness_TcpHeaderIsLocatedAndRead :
    (Channel.tcp4 = .tcp4 ∧ 0 = (if half (armed datagramA 20).rxbuf 2 = (54321#16).toNat then 0 else
      ((armed datagramA 20).rxbuf.read 0).toNat % 16 * 4)) ∧
    (Channel.tcp4 = .tcp4 ∧ 4 = (if half (armed datagramA 20).rxbuf 2 = (54320#16).toNat then 0 else
      ((armed datagramA 20).rxbuf.read 0).toNat % 16 * 4)) ∧
    (Channel.tcp6 = .tcp6 ∧ 0 = 0) ∧ (13 < 0 + 14 ∧ 0 + 14 ≤ 14 ∧ 17 < 4 + 14 ∧ 4 + 14 ≤ 18) := by decide

/-- Without an outer header (base 0, embedded header at 8, UDP header at 28), and behind one of 20 bytes; each length at the
boundary of its clause. -/
theorem witness_Icmp4ErrorIsParsed :
    (0 = (if false = true then ((armed datagramC 36).rxbuf.read 0).toNat % 16 * 4 else 0) ∧ 8 = 0 + 8 ∧
      28 = 8 + ((armed datagramC 36).rxbuf.read 8).toNat % 16 * 4) ∧
    20 = (if true = true then ((armed (0x45 :: datagramC) 37).rxbuf.read 0).toNat % 16 * 4 else 0) ∧
    (1 < 0 + 2 ∧ 0 + 2 ≤ 2 ∧ 17 < 8 + 10 ∧ 8 + 10 ≤ 18 ∧ 31 < 28 + 4 ∧ 28 + 4 ≤ 32) ∧
    ((armed datagramC 36).rxbuf.read 0 = 3#8 ∧ (armed datagramC 36).rxbuf.read 1 = 3#8) ∧
    (armed (datagramC.set 1 1) 36).rxbuf.read (0 + 1) ≠ 3#8 ∧
    (armed datagramC 36).rxbuf.read (8 + 9) = 17#8 ∧ (armed (datagramC.set 17 6) 36).rxbuf.read (8 + 9) ≠ 17#8 := by decide

theorem witness_Icmp6ErrorIsParsed : (1 < 2 ∧ 2 ≤ 2 ∧ 14 < 15 ∧ 15 ≤ 15 ∧ 51 < 52 ∧ 52 ≤ 52) ∧
    ((armed datagramD 56).rxbuf.read 0 = 1#8 ∧ (armed datagramD 56).rxbuf.read 1 = 4#8) ∧
    (armed (datagramD.set 1 1) 56).rxbuf.read 1 ≠ 4#8 ∧ (armed datagramD 56).rxbuf.read 14 = 17#8 ∧
    (armed (datagramD.set 14 6) 56).rxbuf.read 14 ≠ 17#8 := by decide

/-- The two buffers differ at the offset RX_LEN and agree below it. -/
theorem witness_ParserReadsOnlyTheDatagram : (Instr.classify .tcp4 = .parse .tcp4 ∨ Instr.classify .tcp4 = .classify .tcp4) ∧
    (∀ k, k < (armed datagramA 14).rxLen.toNat → (Memory.writeBytes [] 0 (datagramA.take 14)).read k =
      (armed datagramA 14).rxbuf.read k) ∧
    (Memory.writeBytes [] 0 (datagramA.take 14)).read 14 ≠ (armed datagramA 14).rxbuf.read 14 := by
  refine ⟨by decide, fun k hk => ?_, by decide⟩
  have hk' : k < 14 := hk
  revert k
  decide

theorem witness_CandidateOfAParseResult : (0 = 0 ∨ 0 = 1) ∧
    candidate (.tcp 0 443 54321 0x12) 54321 = some ⟨443, .tcp, .opened⟩ := by decide

theorem witness_ClassifyWithoutCandidate : (Parsed.trunc = parse .tcp4 (armed datagramA 13).rxbuf
      (armed datagramA 13).rxLen.toNat (armed datagramA 13).srcPort ((armed datagramA 13).ctrl.getLsbD 1) ∧
      candidate .trunc 54321 = none ∧ 0x500000 = resNumber (if Parsed.trunc = .trunc then 5 else 4) 0 0 0) ∧
    (Parsed.tcp 0 443 54321 0x52 = parse .tcp4 (armed (datagramA.set 13 0x52) 14).rxbuf 14 54321 false ∧
      candidate (.tcp 0 443 54321 0x52) 54321 = none) := by decide

/-- A candidate for a pending, an absent and a resolved entry: outcomes 1, 3 and 2. -/
theorem witness_ClassifyWithCandidate : candidate (parse .tcp4 (armed datagramA 20).rxbuf (armed datagramA 20).rxLen.toNat
      (armed datagramA 20).srcPort ((armed datagramA 20).ctrl.getLsbD 1)) (armed datagramA 20).srcPort =
      some ⟨443, .tcp, .opened⟩ ∧ (armed datagramA 20).verdict .tcp 443 = .pending ∧
    ({ armed datagramA 20 with vt := [] } : State).verdict .tcp 443 = .absent ∧
    ({ armed datagramA 20 with vt := [(443, .closed)] } : State).verdict .tcp 443 = .closed ∧
    0x1401BB = resNumber 1 (verdictCode .opened) (Proto.code .tcp) (443#16).toNat := by decide

theorem witness_ClassifyIsIdempotentOnTheTable : busy.verdict .udp 53 ≠ .pending := by decide

theorem witness_AnswersResolvePendingPorts : (14 ≤ (armed datagramA 14).rxLen.toNat ∧
      half (armed datagramA 14).rxbuf 0 = (443#16).toNat ∧ half (armed datagramA 14).rxbuf 2 = (armed datagramA 14).srcPort.toNat ∧
      (armed datagramA 14).verdict .tcp 443 = .pending ∧ (armed datagramA 14).rxbuf.read 13 = 0x12#8 ∧
      (armed (datagramA.set 13 4) 14).rxbuf.read 13 = 0x04#8 ∧ (armed (datagramA.set 13 0x14) 14).rxbuf.read 13 = 0x14#8) ∧
    ((armed datagramC 32).ctrl.getLsbD 1 = false ∧ 28 = 8 + ((armed datagramC 32).rxbuf.read 8).toNat % 16 * 4 ∧
      18 ≤ (armed datagramC 32).rxLen.toNat ∧ 28 + 4 ≤ (armed datagramC 32).rxLen.toNat ∧
      (armed datagramC 32).rxbuf.read 0 = 3#8 ∧ (armed datagramC 32).rxbuf.read 1 = 3#8 ∧
      (armed datagramC 32).rxbuf.read 17 = 17#8 ∧ half (armed datagramC 32).rxbuf (28 + 2) = (53#16).toNat ∧
      (armed datagramC 32).verdict .udp 53 = .pending) := by decide

theorem witness_SetvResolvesPending : 0x510BFFFF#32 = .ofNat 32 (0x51000000 + (5#3).toNat * 2 ^ 17 + Proto.code .udp * 2 ^ 16 +
      (0xFFFF#16).toNat) ∧ (verdictCode .opened = (2#3).toNat ∧ 2 ≤ (2#3).toNat) ∧
    (verdictCode .filtered = (4#3).toNat ∧ 2 ≤ (4#3).toNat) ∧ (1#3).toNat < 2 ∧ 4 < (5#3).toNat := by decide

theorem witness_EveryTransitionOfATableEntry : (∃ t, exec (.arm .tcp 22) State.reset = .next t ∧ t.verdict .tcp 22 = .pending) ∧
    (∃ t, exec (.setv .tcp 443 4) busy = .next t ∧ t.verdict .tcp 443 = .filtered) ∧
    (∃ t, exec (.classify .tcp4) busy = .next t ∧ t.verdict .tcp 443 = .opened) ∧
    (∃ t, exec .clrv busy = .next t ∧ t.verdict .udp 53 = .absent) ∧
    ((State.reset.setInput [.reset]).input = .reset :: [] ∧ ∃ t, step (State.reset.setInput [.reset]) = .next t) ∧
    Instr.setv .tcp 443 4 ≠ .clrv :=
  ⟨⟨_, rfl, by decide⟩, ⟨_, rfl, by decide⟩, ⟨_, rfl, by decide⟩, ⟨_, rfl, by decide⟩, ⟨rfl, _, rfl⟩, by decide⟩

theorem witness_VerdictsMoveOnlyForward : (∃ t, step busy = .next t ∧ t.verdict .tcp 443 = .opened) ∧
    ∀ rest, busy.input ≠ .reset :: rest ∧ busy.input ≠ .command 0x53000000#32 :: rest :=
  ⟨⟨_, rfl, by decide⟩, fun _ => ⟨by simp [busy], by simp [busy]⟩⟩

theorem witness_OperandsThatNoFieldHolds : [Instr.stb .rx 2048 0, .ldb .tx 2048, .setrxlen 4096, .csum .tx 0 4096,
    .csum .tx 2048 0, .csum .rx 2048 1].all (fun i => i.wf == false && i != .csum .rx 2048 0) = true := by decide

end Sys2Proof.Tests
end

section
/-! PROOFS (00_scope.md R8). How a command ends: it completes by `respond` or raises the one error its cause names, and so every
presented word is answered. -/

namespace Sys2Proof.Machine

open Sys2Proof.Safety

/-- How the command with word `w` ends in state `s`, indexed by the error code and the step's result: it completes with code 0 in
a state that presents what `s` does, or it raises an error with that error's code (R7, R207). -/
inductive Ends (s : State) (w : Word) : Nat → Result → Prop
  | completes (d : Word) (u : State) (h : u.input = s.input) : Ends s w 0 (respond d u)
  | raises (e : CmdError) : Ends s w e.code.toNat (raise e w s)

/-- A command that ends in one of the two ways is answered: a next state, the host's further events, a response with the code. -/
theorem Ends.answered {s : State} {w : Word} {code : Nat} {r : Result} (h : Ends s w code r) :
    ∃ t d, r = .next t ∧ t.input = s.input ∧ t.resp = some d ∧ (d.err ≠ 0#4 → d.data = 0#32) ∧ d.err.toNat = code := by
  cases h with
  | completes d u hu => exact ⟨_, _, respond_next.2 rfl, hu, rfl, fun hne => absurd rfl hne, rfl⟩
  | raises e => exact ⟨_, _, raise_next.2 rfl, rfl, rfl, fun _ => rfl, rfl⟩

theorem Ends.emits (s : State) (w : Word) (bytes : List Byte) : Ends s w 0 (emit bytes s) := .completes _ _ rfl

-- What makes an operand or a pair of tags unusable, in the terms of the causes of R205.

theorem cap_eq_capacity (b : Buf) : cap b = capacity b := by cases b <;> rfl

/-- Code 3 is the one family code that names none (R63). -/
theorem AF.ofOperand_eq_none_iff (c : BitVec 2) : AF.ofOperand c = Option.none ↔ c.toNat = 3 := by
  revert c
  decide

/-- The verdict codes that are not terminal name none (R63). -/
theorem Verdict.ofOperand_eq_none_iff (c : BitVec 3) : Verdict.ofOperand c = none ↔ c.toNat < 2 ∨ 4 < c.toNat := by
  revert c
  decide

/-- The selectors between the two ranges of the table, and those behind it, name no register (R12). -/
theorem RegName.ofSelector_eq_none_iff (sel : BitVec 8) :
    RegName.ofSelector sel = none ↔ (0x14 ≤ sel.toNat ∧ sel.toNat ≤ 0x1F) ∨ 0x28 ≤ sel.toNat := by
  rw [RegName.ofSelector, List.lookup_eq_none_iff]
  simp [selectorTable, ← BitVec.toNat_inj]
  omega

/-- Two tags choose a family exactly when they are one loaded family (R130). -/
theorem family_eq_none_iff (src dst : AF) :
    family src dst = none ↔ ¬((src = .v4 ∧ dst = .v4) ∨ (src = .v6 ∧ dst = .v6)) := by
  cases src <;> cases dst <;> decide

-- The commands that can raise, each with its cause, and CLASSIFY, which has cases and never raises.

theorem execSetaf_ends (r : AddrReg) (af : BitVec 2) (s : State) :
    Ends s (encode (.setaf r af)) (errorCause s (.setaf r af)) (execSetaf r af s) := by
  simp only [execSetaf, errorCause, ← AF.ofOperand_eq_none_iff]
  cases AF.ofOperand af with
  | none => exact .raises .operand
  | some f => exact .completes _ _ (State.setAfTag_input s r f)

theorem execGetr_ends (sel : BitVec 8) (s : State) :
    Ends s (encode (.getr sel)) (errorCause s (.getr sel)) (execGetr sel s) := by
  simp only [execGetr, errorCause, ← RegName.ofSelector_eq_none_iff]
  cases RegName.ofSelector sel with
  | none => exact .raises .operand
  | some r => exact .completes _ _ rfl

theorem execSetv_ends (p : Proto) (port : Half) (v : BitVec 3) (s : State) :
    Ends s (encode (.setv p port v)) (errorCause s (.setv p port v)) (execSetv p port v s) := by
  simp only [execSetv, errorCause, ← Verdict.ofOperand_eq_none_iff]
  cases Verdict.ofOperand v with
  | none => exact .raises .operand
  | some t => exact .completes _ _ (by split <;> rfl)

theorem execStb_ends (b : Buf) (off : Nat) (data : Byte) (s : State) :
    Ends s (encode (.stb b off data)) (errorCause s (.stb b off data)) (execStb b off data s) := by
  simp only [execStb, errorCause, cap_eq_capacity]
  split
  · exact .raises .range
  · exact .completes _ _ (State.setBuf_input s b _)

theorem execLdb_ends (b : Buf) (off : Nat) (s : State) :
    Ends s (encode (.ldb b off)) (errorCause s (.ldb b off)) (execLdb b off s) := by
  simp only [execLdb, errorCause, cap_eq_capacity]
  split
  · exact .raises .range
  · exact .completes _ _ rfl

theorem execSetrxlen_ends (len : Nat) (s : State) :
    Ends s (encode (.setrxlen len)) (errorCause s (.setrxlen len)) (execSetrxlen len s) := by
  simp only [execSetrxlen, errorCause, show Config.rxCap = 2048 from rfl]
  split
  · exact .raises .range
  · exact .completes _ _ rfl

theorem execCsum_ends (b : Buf) (off len : Nat) (s : State) :
    Ends s (encode (.csum b off len)) (errorCause s (.csum b off len)) (execCsum b off len s) := by
  simp only [errorCause, ← cap_eq_capacity]
  split
  case isTrue h => exact execCsum_outside s h ▸ .raises .range
  case isFalse h =>
    obtain ⟨c, -, hc⟩ := execCsum_inside s h
    exact hc ▸ .completes _ _ rfl

theorem execBip4_ends (p : Proto) (s : State) : Ends s (encode (.bip4 p)) (errorCause s (.bip4 p)) (execBip4 p s) := by
  simp only [execBip4, errorCause, ← not_and_or, ne_eq, ite_not]
  split
  · exact .emits ..
  · exact .raises .af

theorem execBip6_ends (p : Proto) (s : State) : Ends s (encode (.bip6 p)) (errorCause s (.bip6 p)) (execBip6 p s) := by
  simp only [execBip6, errorCause, ← not_and_or, ne_eq, ite_not]
  split
  · exact .emits ..
  · exact .raises .af

/-- A transport build raises when the tags choose no family and emits when they choose one (R135, R138). -/
theorem Ends.of_family {s : State} {w : Word} {r : Result} (hnone : family s.srcAf s.dstAf = none → r = raise .af w s)
    (hsome : ∀ v, family s.srcAf s.dstAf = some v → ∃ bytes, r = emit bytes s) :
    Ends s w (if (s.srcAf = .v4 ∧ s.dstAf = .v4) ∨ (s.srcAf = .v6 ∧ s.dstAf = .v6) then 0 else 4) r := by
  rw [← ite_not]
  simp only [← family_eq_none_iff]
  cases hf : family s.srcAf s.dstAf with
  | none => exact hnone hf ▸ .raises .af
  | some v =>
    obtain ⟨bytes, hr⟩ := hsome v hf
    exact hr ▸ .emits ..

theorem execBtcp_ends (s : State) : Ends s (encode .btcp) (errorCause s .btcp) (execBtcp s) :=
  .of_family (fun h => by rw [execBtcp, h]) fun v h => ⟨transportHeader v .tcp s, by rw [execBtcp, h]⟩

theorem execBudp_ends (s : State) : Ends s (encode .budp) (errorCause s .budp) (execBudp s) :=
  .of_family (fun h => by rw [execBudp, h]) fun v h => ⟨transportHeader v .udp s, by rw [execBudp, h]⟩

theorem execBuild_ends (p : Proto) (s : State) : Ends s (encode (.build p)) (errorCause s (.build p)) (execBuild p s) := by
  simp only [execBuild, errorCause]
  cases s.dstAf with
  | none => exact .raises .af
  | v4 | v6 =>
    simp only [ne_eq, ite_not, reduceCtorEq, not_false_eq_true, true_and]
    split
    · exact .emits ..
    · exact .raises .af

/-- CLASSIFY never raises: each of its four cases answers `RES` (R173). -/
theorem execClassify_ends (ch : Channel) (s : State) (w : Word) : Ends s w 0 (execClassify ch s) := by
  rw [execClassify]
  rcases classifyParsed_cases (s.parsed ch) (s.setPr (parseRegs ch (s.parsed ch))) with
    ⟨-, h⟩ | ⟨-, -, h⟩ | ⟨c, -, -, -, h⟩ | ⟨c, o, -, -, -, -, -, h⟩ <;>
    exact h ▸ .completes _ _ rfl

/-- Every command ends, with the error code R205 gives for it and the state, and 0 where it gives none. -/
theorem exec_ends (i : Instr) (s : State) : Ends s (encode i) (errorCause s i) (exec i s) := by
  cases i with
  | nop => exact .completes _ _ rfl
  | setaf r af => exact execSetaf_ends r af s
  | setah r idx imm16 => exact .completes _ _ (State.setAddr_input s r _)
  | setsp imm16 => exact .completes _ _ rfl
  | setdp imm16 => exact .completes _ _ rfl
  | setctl k => exact .completes _ _ rfl
  | getr sel => exact execGetr_ends sel s
  | clrerr => exact .completes _ _ rfl
  | ack => exact .completes _ _ rfl
  | stb b off data => exact execStb_ends b off data s
  | ldb b off => exact execLdb_ends b off s
  | setrxlen len => exact execSetrxlen_ends len s
  | csum b off len => exact execCsum_ends b off len s
  | bip4 p => exact execBip4_ends p s
  | bip6 p => exact execBip6_ends p s
  | btcp => exact execBtcp_ends s
  | budp => exact execBudp_ends s
  | build p => exact execBuild_ends p s
  | parse ch => exact .completes _ _ rfl
  | classify ch => exact execClassify_ends ch s _
  | arm p port => exact .completes _ _ (by split <;> rfl)
  | setv p port v => exact execSetv_ends p port v s
  | getv p port => exact .completes _ _ rfl
  | clrv => exact .completes _ _ rfl

/-- The cause of an error does not depend on what the host presents next. -/
theorem errorCause_setInput (s : State) (l : List HostEvent) (i : Instr) : errorCause (s.setInput l) i = errorCause s i := by
  cases i <;> rfl

/-- Settles O10: a word that decodes ends as its command does, and any other word raises ERR_ILLEGAL (R209). -/
theorem everyCommandIsAnsweredWithItsErrorCode : Obligations.EveryCommandIsAnsweredWithItsErrorCode := by
  intro s w rest hin
  rw [step_command hin]
  cases hdec : decode w with
  | ok i =>
    rw [runWord_ok hdec]
    obtain ⟨t, d, hnext, hinput, hresp, hdata, hcode⟩ := (exec_ends i (s.setInput rest)).answered
    rw [errorCause_setInput] at hcode
    exact ⟨t, d, hnext, hinput, hresp, hdata, by rintro _ ⟨⟩; exact hcode, by rintro ⟨e, he⟩; cases he⟩
  | error e =>
    rw [runWord_error hdec]
    obtain ⟨t, d, hnext, hinput, hresp, hdata, hcode⟩ := (Ends.raises (s := s.setInput rest) (w := w) .illegal).answered
    exact ⟨t, d, hnext, hinput, hresp, hdata, by rintro i ⟨⟩, fun _ => hcode⟩

end Sys2Proof.Machine
end

section
/-! PROOFS (10_state.md R28). What each command does when it completes, and all that one step can do; the frames, the events, the
table and the invariant are read from these. -/

namespace Sys2Proof.Machine

open Sys2Proof.Safety

/-- The commands that build into TXBUF, each with the bytes it builds (R118, R121, R135, R138, R146). -/
inductive Builds (s : State) : Instr → List Byte → Prop
  | bip4 (p : Proto) (h : s.srcAf = .v4 ∧ s.dstAf = .v4) : Builds s (.bip4 p) (ipHeader .v4 s.srcAddr s.dstAddr p)
  | bip6 (p : Proto) (h : s.srcAf = .v6 ∧ s.dstAf = .v6) : Builds s (.bip6 p) (ipHeader .v6 s.srcAddr s.dstAddr p)
  | btcp (v : IpVer) (h : family s.srcAf s.dstAf = some v) : Builds s .btcp (transportHeader v .tcp s)
  | budp (v : IpVer) (h : family s.srcAf s.dstAf = some v) : Builds s .budp (transportHeader v .udp s)
  | build (v : IpVer) (p : Proto) (h : family s.srcAf s.dstAf = some v) : Builds s (.build p) (packet v p s)

/-- The state, before its response is given, that a command leaves when it completes: one way per command and branch. -/
inductive Completes (s : State) : Instr → State → Prop
  | nop : Completes s .nop s
  | setaf (r : AddrReg) (af : BitVec 2) (f : AF) (h : AF.ofOperand af = some f) :
      Completes s (.setaf r af) (s.setAfTag r f)
  | setah (r : AddrReg) (idx : Fin 8) (v : Half) : Completes s (.setah r idx v) (s.setAddr r ((s.addr r).setHalf idx v))
  | setsp (v : Half) : Completes s (.setsp v) { s with srcPort := v }
  | setdp (v : Half) : Completes s (.setdp v) { s with dstPort := v }
  | setctl (k : BitVec 2) : Completes s (.setctl k) { s with ctrl := k }
  | getr (sel : BitVec 8) (r : RegName) (h : RegName.ofSelector sel = some r) : Completes s (.getr sel) s
  | clrerr : Completes s .clrerr s.clearErrorRecord
  | ack : Completes s .ack { s with status := s.status.withPend false }
  | stb (b : Buf) (off : Nat) (v : Byte) (h : off < cap b) :
      Completes s (.stb b off v) (s.setBuf b ((s.buf b).write off v))
  | ldb (b : Buf) (off : Nat) (h : off < cap b) : Completes s (.ldb b off) s
  | setrxlen (len : Nat) (h : len ≤ Config.rxCap) : Completes s (.setrxlen len) { s with rxLen := .ofNat 12 len }
  | csum (b : Buf) (off len : Nat) (c : Half) (h : off + len ≤ cap b) (hc : csum ((s.buf b).readBytes off len) = some c) :
      Completes s (.csum b off len) { s with csAcc := .ofNat 32 (acc ((s.buf b).readBytes off len)), csRes := c }
  | builds {i : Instr} {bytes : List Byte} (h : Builds s i bytes) : Completes s i (s.setTx bytes)
  | parse (ch : Channel) : Completes s (.parse ch) (s.setPr (parseRegs ch (s.parsed ch)))
  | classifyTruncated (ch : Channel) (h : s.parsed ch = .trunc) :
      Completes s (.classify ch) ((s.setPr (parseRegs ch (s.parsed ch))).setRes (resNone .parseErr))
  | classifyIgnored (ch : Channel) (h : s.parsed ch ≠ .trunc) (hc : candidate (s.parsed ch) s.srcPort = none) :
      Completes s (.classify ch) ((s.setPr (parseRegs ch (s.parsed ch))).setRes (resNone .ignored))
  | classifyUpdates (ch : Channel) (c : Candidate) (hc : candidate (s.parsed ch) s.srcPort = some c)
      (h : s.verdict c.proto c.port = .pending) :
      Completes s (.classify ch)
        (((s.setPr (parseRegs ch (s.parsed ch))).setEvent c (resWord .updated c)).setRes (resWord .updated c))
  | classifyKeeps (ch : Channel) (c : Candidate) (hc : candidate (s.parsed ch) s.srcPort = some c)
      (h : s.verdict c.proto c.port ≠ .pending) :
      Completes s (.classify ch)
        ((s.setPr (parseRegs ch (s.parsed ch))).setRes (resWord (correlateOutcome (s.verdict c.proto c.port)) c))
  | arms (p : Proto) (n : Half) (h : s.verdict p n = .absent) : Completes s (.arm p n) (s.setVerdict p n .pending)
  | armKeeps (p : Proto) (n : Half) (h : s.verdict p n ≠ .absent) : Completes s (.arm p n) s
  | resolves (p : Proto) (n : Half) (v : BitVec 3) (t : Verdict) (ht : Verdict.ofOperand v = some t)
      (h : s.verdict p n = .pending) : Completes s (.setv p n v) (s.setVerdict p n t)
  | setvKeeps (p : Proto) (n : Half) (v : BitVec 3) (t : Verdict) (ht : Verdict.ofOperand v = some t)
      (h : s.verdict p n ≠ .pending) : Completes s (.setv p n v) s
  | getv (p : Proto) (n : Half) : Completes s (.getv p n) s
  | clrv : Completes s .clrv { s with vt := [], evt := 0#24, status := s.status.withPend false }

/-- What a command can answer: it responds in a state it completes with, or it raises with its own word. -/
inductive Runs (s : State) (i : Instr) : Result → Prop
  | completes (d : Word) {u : State} (h : Completes s i u) : Runs s i (respond d u)
  | raises (e : CmdError) : Runs s i (raise e (encode i) s)

theorem Runs.emits {s : State} {i : Instr} {bytes : List Byte} (h : Builds s i bytes) : Runs s i (emit bytes s) :=
  .completes _ (.builds h)

-- The commands with branches.

theorem execSetaf_runs (r : AddrReg) (af : BitVec 2) (s : State) : Runs s (.setaf r af) (execSetaf r af s) := by
  unfold execSetaf
  split
  · exact .raises .operand
  · exact .completes _ (.setaf r af _ ‹_›)

theorem execGetr_runs (sel : BitVec 8) (s : State) : Runs s (.getr sel) (execGetr sel s) := by
  unfold execGetr
  split
  · exact .raises .operand
  · exact .completes _ (.getr sel _ ‹_›)

theorem execStb_runs (b : Buf) (off : Nat) (v : Byte) (s : State) : Runs s (.stb b off v) (execStb b off v s) := by
  unfold execStb
  split
  · exact .raises .range
  · exact .completes _ (.stb b off v (not_le.1 ‹_›))

theorem execLdb_runs (b : Buf) (off : Nat) (s : State) : Runs s (.ldb b off) (execLdb b off s) := by
  unfold execLdb
  split
  · exact .raises .range
  · exact .completes _ (.ldb b off (not_le.1 ‹_›))

theorem execSetrxlen_runs (len : Nat) (s : State) : Runs s (.setrxlen len) (execSetrxlen len s) := by
  unfold execSetrxlen
  split
  · exact .raises .range
  · exact .completes _ (.setrxlen len (not_lt.1 ‹_›))

theorem execCsum_runs (b : Buf) (off len : Nat) (s : State) : Runs s (.csum b off len) (execCsum b off len s) := by
  by_cases h : cap b < off + len
  · exact execCsum_outside s h ▸ .raises .range
  · obtain ⟨c, hc, hexec⟩ := execCsum_inside s h
    exact hexec ▸ .completes _ (.csum b off len c (not_lt.1 h) hc)

theorem execBip4_runs (p : Proto) (s : State) : Runs s (.bip4 p) (execBip4 p s) := by
  simp only [execBip4, ← not_and_or, ne_eq, ite_not]
  split
  · exact .emits (.bip4 p ‹_›)
  · exact .raises .af

theorem execBip6_runs (p : Proto) (s : State) : Runs s (.bip6 p) (execBip6 p s) := by
  simp only [execBip6, ← not_and_or, ne_eq, ite_not]
  split
  · exact .emits (.bip6 p ‹_›)
  · exact .raises .af

theorem execBtcp_runs (s : State) : Runs s .btcp (execBtcp s) := by
  unfold execBtcp
  split
  · exact .raises .af
  · exact .emits (.btcp _ ‹_›)

theorem execBudp_runs (s : State) : Runs s .budp (execBudp s) := by
  unfold execBudp
  split
  · exact .raises .af
  · exact .emits (.budp _ ‹_›)

theorem execBuild_runs (p : Proto) (s : State) : Runs s (.build p) (execBuild p s) := by
  unfold execBuild
  cases hdst : s.dstAf with
  | none => exact .raises .af
  | v4 | v6 =>
    simp only [ne_eq, ite_not]
    split
    case isTrue hsrc => exact .emits (.build _ p (by rw [hsrc, hdst]; rfl))
    case isFalse => exact .raises .af

theorem execClassify_runs (ch : Channel) (s : State) : Runs s (.classify ch) (execClassify ch s) := by
  rw [execClassify]
  rcases classifyParsed_cases (s.parsed ch) (s.setPr (parseRegs ch (s.parsed ch))) with
    ⟨htrunc, h⟩ | ⟨hne, hnone, h⟩ | ⟨c, -, hc, hv, h⟩ | ⟨c, o, -, hc, hv, rfl, -, h⟩
  · exact h ▸ .completes _ (.classifyTruncated ch htrunc)
  · exact h ▸ .completes _ (.classifyIgnored ch hne hnone)
  · exact h ▸ .completes _ (.classifyUpdates ch c hc hv)
  · exact h ▸ .completes _ (.classifyKeeps ch c hc hv)

theorem execArm_runs (p : Proto) (n : Half) (s : State) : Runs s (.arm p n) (execArm p n s) := by
  unfold execArm
  split
  · exact .completes _ (.arms p n ‹_›)
  · exact .completes _ (.armKeeps p n ‹_›)

theorem execSetv_runs (p : Proto) (n : Half) (v : BitVec 3) (s : State) : Runs s (.setv p n v) (execSetv p n v s) := by
  unfold execSetv
  split
  · exact .raises .operand
  · split
    · exact .completes _ (.resolves p n v _ ‹_› ‹_›)
    · exact .completes _ (.setvKeeps p n v _ ‹_› ‹_›)

/-- Every command completes in one of the ways of `Completes`, or raises. -/
theorem exec_runs (i : Instr) (s : State) : Runs s i (exec i s) := by
  cases i with
  | nop => exact .completes _ .nop
  | setaf r af => exact execSetaf_runs r af s
  | setah r idx v => exact .completes _ (.setah r idx v)
  | setsp v => exact .completes _ (.setsp v)
  | setdp v => exact .completes _ (.setdp v)
  | setctl k => exact .completes _ (.setctl k)
  | getr sel => exact execGetr_runs sel s
  | clrerr => exact .completes _ .clrerr
  | ack => exact .completes _ .ack
  | stb b off v => exact execStb_runs b off v s
  | ldb b off => exact execLdb_runs b off s
  | setrxlen len => exact execSetrxlen_runs len s
  | csum b off len => exact execCsum_runs b off len s
  | bip4 p => exact execBip4_runs p s
  | bip6 p => exact execBip6_runs p s
  | btcp => exact execBtcp_runs s
  | budp => exact execBudp_runs s
  | build p => exact execBuild_runs p s
  | parse ch => exact .completes _ (.parse ch)
  | classify ch => exact execClassify_runs ch s
  | arm p n => exact execArm_runs p n s
  | setv p n v => exact execSetv_runs p n v s
  | getv p n => exact .completes _ (.getv p n)
  | clrv => exact .completes _ .clrv

/-- All that a command can do: complete, or write the error record of one of the four errors. -/
theorem exec_cases {i : Instr} {s t : State} (h : exec i s = .next t) :
    (∃ u d, Completes s i u ∧ t = u.answer ⟨0#4, d⟩) ∨
      ∃ e, t = (s.recordError e (encode i)).answer ⟨CmdError.code e, 0#32⟩ := by
  have hrun := exec_runs i s
  rw [h] at hrun
  generalize hr : (Host.Outcome.next t : Result) = r at hrun
  cases hrun with
  | completes d hu => exact .inl ⟨_, d, hu, respond_next.1 hr.symm⟩
  | raises e => exact .inr ⟨e, raise_next.1 hr.symm⟩

/-- All that a step can do: wait, take a reset, run a word that decodes, or raise ERR_ILLEGAL for one that does not. -/
theorem step_cases {s t : State} (h : step s = .next t) :
    (s.input = [] ∧ t = s) ∨ (∃ rest, s.input = .reset :: rest ∧ t = State.afterReset rest) ∨
    (∃ w rest i, s.input = .command w :: rest ∧ decode w = .ok i ∧ exec i (s.setInput rest) = .next t) ∨
    (∃ w rest, s.input = .command w :: rest ∧
      t = ((s.setInput rest).recordError .illegal w).answer ⟨CmdError.illegal.code, 0#32⟩) := by
  cases hin : s.input with
  | nil =>
    rw [step_nil hin, Host.Outcome.next.injEq] at h
    exact .inl ⟨rfl, h.symm⟩
  | cons e rest =>
    cases e with
    | reset =>
      rw [step_reset hin, Host.Outcome.next.injEq] at h
      exact .inr (.inl ⟨rest, rfl, h.symm⟩)
    | command w =>
      rw [step_command hin] at h
      cases hdec : decode w with
      | ok i =>
        rw [runWord_ok hdec] at h
        exact .inr (.inr (.inl ⟨w, rest, i, rfl, hdec, h⟩))
      | error e =>
        rw [runWord_error hdec, raise_next] at h
        exact .inr (.inr (.inr ⟨w, rest, rfl, h⟩))

end Sys2Proof.Machine
end

section
/-! PROOFS (10_state.md R28). The write matrix: what each update leaves unchanged, then each command, then the places inside a
buffer, an address or the table. -/

namespace Sys2Proof.Machine

open Sys2Proof.Safety

/-- Outside the listed components two states are the same. -/
def SameOutside (l : List Component) (s t : State) : Prop := ∀ c, c ∉ l → c.same s t

theorem Component.same_refl (s : State) (c : Component) : c.same s s := by
  cases c
  case txbuf | rxbuf => exact fun _ => rfl
  case vt => exact fun _ _ => rfl
  all_goals rfl

theorem Component.same_answer {s u : State} {c : Component} (h : c.same s u) (d : Response) : c.same s (u.answer d) := by
  cases c <;> exact h

theorem SameOutside.mono {l l' : List Component} {s t : State} (h : SameOutside l s t) (hl : l ⊆ l') : SameOutside l' s t :=
  fun c hc => h c fun hmem => hc (hl hmem)

theorem SameOutside.answer {l : List Component} {s t : State} (h : SameOutside l s t) (d : Response) :
    SameOutside l s (t.answer d) := fun c hc => Component.same_answer (h c hc) d

/-- The error record is written as R28 says: ERR always, ERRCODE and ERRCMD only if ERR was 0. -/
theorem sameOutside_recordError (s : State) (e : CmdError) (w : Word) :
    SameOutside (writtenByRaise s) s (s.recordError e w) := by
  intro c hc
  have hself := Component.same_refl s c
  unfold writtenByRaise at hc
  split at hc
  case isTrue herr =>
    cases c
    case errCode | errCmd => simp [Component.same, herr]
    all_goals simp at hc <;> exact hself
  case isFalse => cases c <;> simp at hc <;> exact hself

theorem writtenByRaise_subset (s : State) : writtenByRaise s ⊆ [.err, .errCode, .errCmd] := by
  unfold writtenByRaise
  split <;> simp

-- One frame per command.

theorem Builds.writtenBy_eq {s : State} {i : Instr} {bytes : List Byte} (h : Builds s i bytes) :
    writtenBy i = [.txbuf, .txLen] := by cases h <;> rfl

/-- The parse result registers and RES are all that CLASSIFY writes without an update. -/
theorem sameOutside_setPr_setRes (s : State) (pr : ParseRegs) (r : BitVec 24) :
    SameOutside [.pr, .res] s ((s.setPr pr).setRes r) := by
  intro c hc
  have hself := Component.same_refl s c
  cases c <;> simp at hc <;> exact hself

theorem sameOutside_setPr_setEvent_setRes (s : State) (pr : ParseRegs) (k : Candidate) (r : BitVec 24) :
    SameOutside [.pr, .res, .vt, .evt, .evtPend] s (((s.setPr pr).setEvent k r).setRes r) := by
  intro c hc
  have hself := Component.same_refl s c
  cases c <;> simp at hc <;> exact hself

/-- A command that completes changes only what its row names: every component is named in the row, or untouched by the update. -/
theorem Completes.sameOutside {s u : State} {i : Instr} (h : Completes s i u) : SameOutside (writtenBy i) s u := by
  intro c hc
  have hself := Component.same_refl s c
  cases h with
  | nop | getr | ldb | getv | armKeeps | setvKeeps => exact hself
  | setaf r | setah r => cases r <;> cases c <;> simp [writtenBy] at hc <;> exact hself
  | stb b => cases b <;> cases c <;> simp [writtenBy] at hc <;> exact hself
  | builds hb =>
    rw [hb.writtenBy_eq] at hc
    cases c <;> simp at hc <;> exact hself
  | classifyTruncated | classifyIgnored | classifyKeeps =>
    exact (sameOutside_setPr_setRes s _ _).mono (by simp [writtenBy]) c hc
  | classifyUpdates => exact sameOutside_setPr_setEvent_setRes s _ _ _ c hc
  | _ =>
    simp only [writtenBy] at hc
    cases c <;> simp at hc <;> exact hself

theorem Completes.input_eq {s u : State} {i : Instr} (h : Completes s i u) : u.input = s.input := by
  cases h with
  | setaf r => exact State.setAfTag_input s r _
  | setah r => exact State.setAddr_input s r _
  | stb b => exact State.setBuf_input s b _
  | builds => exact State.setTx_input s _
  | _ => rfl

-- The places inside a component.

theorem State.addr_setAddr (s : State) (r : AddrReg) (a : Addr) : (s.setAddr r a).addr r = a := by cases r <;> rfl

theorem addrByte_of_le (a : Addr) {j : Nat} (h : 16 ≤ j) : addrByte a j = 0 := by
  simp [addrByte, List.getD, h]

/-- SETAH leaves the other bytes of its address. -/
theorem Completes.setah_addrByte {s u : State} {r : AddrReg} {idx : Fin 8} {v : Half} (h : Completes s (.setah r idx v) u)
    {j : Nat} (hj : j ≠ 2 * idx.val) (hj' : j ≠ 2 * idx.val + 1) : addrByte (u.addr r) j = addrByte (s.addr r) j := by
  cases h with
  | builds hb => cases hb
  | setah =>
    rw [State.addr_setAddr]
    by_cases hlt : j < 16
    · rw [addrByte_setHalf _ _ _ hlt, if_neg hj, if_neg hj']
    · rw [addrByte_of_le _ (not_lt.1 hlt), addrByte_of_le _ (not_lt.1 hlt)]

/-- STB leaves every other byte of both buffers. -/
theorem Completes.stb_readByte {s u : State} {b b' : Buf} {off a : Nat} {v : Byte} (h : Completes s (.stb b off v) u)
    (hne : ¬(b' = b ∧ a = off)) : u.readByte b' a = s.readByte b' a := by
  cases h with
  | builds hb => cases hb
  | stb => rw [State.readByte_setBuf_write, if_neg hne]

/-- The lengths a build can have (R18). -/
theorem Builds.length_mem {s : State} {i : Instr} {bytes : List Byte} (h : Builds s i bytes) :
    bytes.length ∈ [8, 20, 28, 40, 48, 60] := by
  cases h with
  | bip4 p | bip6 p => simp
  | btcp v | budp v => simp
  | build v p => cases v <;> cases p <;> simp [packet]

theorem Builds.length_le {s : State} {i : Instr} {bytes : List Byte} (h : Builds s i bytes) : bytes.length ≤ 60 := by
  have hmem := h.length_mem
  simp only [List.mem_cons, List.not_mem_nil, or_false] at hmem
  omega

/-- TX_LEN holds the length of a build. -/
theorem Builds.txLen_toNat {s : State} {i : Instr} {bytes : List Byte} (h : Builds s i bytes) :
    (s.setTx bytes).txLen.toNat = bytes.length := by
  have := h.length_le
  rw [State.setTx_txLen, BitVec.toNat_ofNat]
  omega

/-- A build leaves the bytes of TXBUF behind its result (R18). -/
theorem Builds.readByte_of_le {s : State} {i : Instr} {bytes : List Byte} (h : Builds s i bytes) {a : Nat}
    (ha : (s.setTx bytes).txLen.toNat ≤ a) : (s.setTx bytes).readByte .tx a = s.readByte .tx a := by
  rw [h.txLen_toNat] at ha
  rw [State.readByte_setTx, if_neg (not_lt.2 ha)]

theorem Completes.build_readByte {s u : State} {i : Instr} {p : Proto} (h : Completes s i u)
    (hi : i = .bip4 p ∨ i = .bip6 p ∨ i = .btcp ∨ i = .budp ∨ i = .build p) {a : Nat} (ha : u.txLen.toNat ≤ a) :
    u.readByte .tx a = s.readByte .tx a := by
  rcases hi with rfl | rfl | rfl | rfl | rfl <;> cases h with | builds hb => exact hb.readByte_of_le ha

/-- CLASSIFY writes the table and the event only with the outcome OC_UPDATED (R173). -/
theorem Completes.classify_same {s u : State} {ch : Channel} (h : Completes s (.classify ch) u) (ho : resOutcome u.res ≠ 1) :
    SameOutside [.pr, .res] s u := by
  cases h with
  | builds hb => cases hb
  | classifyTruncated | classifyIgnored | classifyKeeps => exact sameOutside_setPr_setRes s _ _
  | classifyUpdates _ c _ _ =>
    rw [State.setRes_res, (resWord_fields .updated c).1] at ho
    exact absurd rfl ho

/-- CLASSIFY leaves every entry but the one RES names. -/
theorem Completes.classify_verdict {s u : State} {ch : Channel} (h : Completes s (.classify ch) u) {p : Proto} {n : Half}
    (hne : ¬(p = resProto u.res ∧ n = resPort u.res)) : u.verdict p n = s.verdict p n := by
  cases h with
  | builds hb => cases hb
  | classifyTruncated | classifyIgnored | classifyKeeps => rfl
  | classifyUpdates _ c _ _ =>
    obtain ⟨-, -, hproto, hport⟩ := resWord_fields .updated c
    rw [State.setRes_res, hproto, hport] at hne
    rw [State.verdict_setRes, State.verdict_setEvent, if_neg (fun e => hne ⟨e.1.symm, e.2.symm⟩), State.verdict_setPr]

/-- ARM and SETV leave every other entry. -/
theorem Completes.verdict_other {s u : State} {i : Instr} {p : Proto} {n : Half} {v : BitVec 3} (h : Completes s i u)
    (hi : i = .arm p n ∨ i = .setv p n v) {q : Proto} {m : Half} (hne : ¬(q = p ∧ m = n)) :
    u.verdict q m = s.verdict q m := by
  have hset (t : Verdict) : (s.setVerdict p n t).verdict q m = s.verdict q m := by
    rw [State.verdict_setVerdict, if_neg (fun e => hne ⟨e.1.symm, e.2.symm⟩)]
  rcases hi with rfl | rfl
  · cases h with
    | builds hb => cases hb
    | arms => exact hset _
    | armKeeps => rfl
  · cases h with
    | builds hb => cases hb
    | resolves => exact hset _
    | setvKeeps => rfl

theorem CmdError.code_ne_zero (e : CmdError) : e.code ≠ 0#4 := by cases e <;> decide

/-- Settles O12: a command that completes has the frame of its row and leaves the places its row does not name; one that raises
has the frame of the error record. -/
theorem writeMatrix : Obligations.WriteMatrix := by
  intro i s t h
  rcases exec_cases h with ⟨u, d, hu, rfl⟩ | ⟨e, rfl⟩
  · refine ⟨hu.input_eq, ⟨_, rfl, fun _ => hu.sameOutside.answer _, fun hne => absurd rfl hne⟩, ?_, ?_, ?_, ?_, ?_⟩
    · rintro r idx v rfl j hj hj'
      exact hu.setah_addrByte hj hj'
    · rintro b off v rfl b' a hne
      exact hu.stb_readByte hne
    · rintro ⟨p, hi⟩ a ha
      exact hu.build_readByte hi ha
    · rintro ch rfl
      have hevent : ∀ c ∈ [Component.vt, .evt, .evtPend], c ∉ [Component.pr, .res] := by decide
      exact ⟨fun ho c hc => (hu.classify_same ho).answer _ c (hevent c hc), fun p n hne => hu.classify_verdict hne⟩
    · intro p n v hi q m hne
      exact hu.verdict_other hi hne
  · have hframe := (sameOutside_recordError s e (encode i)).answer ⟨e.code, 0#32⟩
    have hevent : ∀ c ∈ [Component.vt, .evt, .evtPend], c ∉ [Component.err, .errCode, .errCmd] := by decide
    refine ⟨rfl, ⟨_, rfl, fun h0 => absurd h0 e.code_ne_zero, fun _ => hframe⟩, ?_, ?_, fun _ _ _ => rfl,
      fun ch _ => ⟨fun _ c hc => hframe c fun hmem => hevent c hc (writtenByRaise_subset s hmem), fun _ _ _ => rfl⟩,
      fun _ _ _ _ _ _ _ => rfl⟩
    · rintro r idx v - j - -
      cases r <;> rfl
    · rintro b off v - b' a -
      exact State.readByte_congr rfl rfl b' a

end Sys2Proof.Machine
end

section
/-! PROOFS (10_state.md R14, 60_exceptions.md R210 to R212, 46_verdict_table.md R195). What the commands do to the event and to
the entries of the table, and what a step does with the word the host presents. -/

namespace Sys2Proof.Machine

open Sys2Proof.Safety

/-- A command that raises does so for the cause R205 gives. -/
theorem errorCause_of_raised {i : Instr} {s : State} {e : CmdError} {w : Word}
    (h : exec i s = .next ((s.recordError e w).answer ⟨e.code, 0#32⟩)) : e.code.toNat = errorCause s i := by
  obtain ⟨t, d, hnext, -, hresp, -, hcode⟩ := (exec_ends i s).answered
  rw [h, Host.Outcome.next.injEq] at hnext
  rw [← hnext, State.answer_resp, Option.some.injEq] at hresp
  rw [← hcode, ← hresp]

theorem correlateOutcome_of_ne_pending {v : Verdict} (h : v ≠ .pending) :
    correlateOutcome v = .noProbe ∨ correlateOutcome v = .dup := by
  cases v with
  | pending => exact absurd rfl h
  | absent => exact .inl rfl
  | opened | closed | filtered => exact .inr rfl

/-- Settles O14: only ACK, CLRV and an updating CLASSIFY reach EVT_PEND or EVT. -/
theorem eventPendingAndIrq : Obligations.EventPendingAndIrq := by
  refine ⟨fun _ => rfl, fun i s t h => ?_⟩
  rcases exec_cases h with ⟨u, d, hu, rfl⟩ | ⟨e, rfl⟩
  · cases hu with
    | setaf r => cases r <;> rfl
    | setah r => cases r <;> rfl
    | stb b => cases b <;> rfl
    | builds hb => cases hb <;> simp
    | classifyTruncated =>
      have hne : resOutcome (resNone .parseErr) ≠ 1 := by decide
      simp [hne]
    | classifyIgnored =>
      have hne : resOutcome (resNone .ignored) ≠ 1 := by decide
      simp [hne]
    | classifyUpdates ch c hc hv =>
      have ho : resOutcome (resWord .updated c) = 1 := (resWord_fields .updated c).1
      simp [ho]
    | classifyKeeps ch c hc hv =>
      have hne : resOutcome (resWord (correlateOutcome (s.verdict c.proto c.port)) c) ≠ 1 := by
        rw [(resWord_fields _ c).1]
        rcases correlateOutcome_of_ne_pending hv with ho | ho <;> rw [ho] <;> decide
      simp [hne]
    | _ => simp
  · have hcause := errorCause_of_raised h
    cases i with
    | ack | clrv | classify => exact absurd (BitVec.eq_of_toNat_eq hcause) e.code_ne_zero
    | _ => rfl

/-- A verdict operand names a terminal verdict. -/
theorem Verdict.ofOperand_terminal {v : BitVec 3} {t : Verdict} (h : Verdict.ofOperand v = some t) : terminal t = true := by
  unfold Verdict.ofOperand at h
  split_ifs at h <;> cases h <;> rfl

/-- A candidate is a closed port, or an open TCP port (R168). -/
theorem candidate_verdict {r : Parsed} {sp : Half} {c : Candidate} (h : candidate r sp = some c) :
    c.verdict = .closed ∨ (c.verdict = .opened ∧ c.proto = .tcp) := by
  cases r with
  | trunc => cases h
  | tcp off sport dport flags =>
    simp only [candidate] at h
    split_ifs at h <;> cases h
    · exact .inr ⟨rfl, rfl⟩
    · exact .inl rfl
  | icmp ver base type code depth eproto esport edport =>
    simp only [candidate] at h
    split_ifs at h
    cases h
    exact .inl rfl

theorem candidate_terminal {r : Parsed} {sp : Half} {c : Candidate} (h : candidate r sp = some c) :
    terminal c.verdict = true := by
  rcases candidate_verdict h with hv | ⟨hv, -⟩ <;> rw [hv] <;> rfl

/-- A move of one entry forward along ABSENT, PENDING, terminal, or none (R195). -/
def Forward (v w : Verdict) : Prop :=
  w = v ∨ (v = .absent ∧ w = .pending) ∨ (v = .pending ∧ terminal w = true)

theorem Forward.refl (v : Verdict) : Forward v v := .inl rfl

/-- Writing one entry forward moves every entry forward. -/
theorem forward_setVerdict {s : State} {p : Proto} {n : Half} {v : Verdict} (h : Forward (s.verdict p n) v) (q : Proto)
    (m : Half) : Forward (s.verdict q m) ((s.setVerdict p n v).verdict q m) := by
  rw [State.verdict_setVerdict]
  split
  case isTrue he =>
    obtain ⟨rfl, rfl⟩ := he
    exact h
  case isFalse => exact .refl _

/-- A command that completes and is not CLRV moves every entry forward. -/
theorem Completes.forward {s u : State} {i : Instr} (h : Completes s i u) (hi : i ≠ .clrv) (p : Proto) (n : Half) :
    Forward (s.verdict p n) (u.verdict p n) := by
  cases h with
  | setaf r => exact .inl (State.verdict_congr (State.setAfTag_vt s r _) p n)
  | setah r => exact .inl (State.verdict_congr (State.setAddr_vt s r _) p n)
  | stb b => exact .inl (State.verdict_congr (State.setBuf_vt s b _) p n)
  | classifyUpdates ch c hc hv =>
    rw [State.verdict_setRes]
    exact forward_setVerdict (s := s.setPr _) (.inr (.inr ⟨hv, candidate_terminal hc⟩)) p n
  | arms q m hv => exact forward_setVerdict (.inr (.inl ⟨hv, rfl⟩)) p n
  | resolves q m v t ht hv => exact forward_setVerdict (.inr (.inr ⟨hv, Verdict.ofOperand_terminal ht⟩)) p n
  | clrv => exact absurd rfl hi
  | _ => exact .refl _

/-- Every command but CLRV moves every entry forward, whether it completes or raises. -/
theorem exec_forward {s t : State} {i : Instr} (h : exec i s = .next t) (hi : i ≠ .clrv) (p : Proto) (n : Half) :
    Forward (s.verdict p n) (t.verdict p n) := by
  rcases exec_cases h with ⟨u, d, hu, rfl⟩ | ⟨e, rfl⟩
  · exact hu.forward hi p n
  · exact .refl _

end Sys2Proof.Machine

namespace Sys2Proof

/-- A word that decodes has the opcode of its command, whose operands fit their fields (R65). -/
theorem opcode_and_wf_of_decode {w : Word} {i : Instr} (h : decode w = .ok i) : bits w 31 24 = i.opcode ∧ i.wf = true := by
  unfold decode at h
  split at h
  case h_25 => cases h
  case h_13 hop =>
    obtain rfl := Except.ok.inj h
    exact ⟨hop, Bool.and_eq_true_iff.2 ⟨decide_eq_true (bits_lt w 22 12), decide_eq_true (bits_lt w 11 0)⟩⟩
  all_goals obtain ⟨-, rfl⟩ := ifReservedZero_ok h
  case h_10 hop | h_11 hop => exact ⟨hop, decide_eq_true (bits_lt w 18 8)⟩
  case h_12 hop => exact ⟨hop, decide_eq_true (bits_lt w 11 0)⟩
  all_goals exact ⟨‹_›, rfl⟩

/-- The one word of CLRV. -/
theorem decode_eq_clrv {w : Word} (h : decode w = .ok .clrv) : w = 0x53000000#32 := by
  have hop : bits w 31 24 = 0x53 := (opcode_and_wf_of_decode h).1
  have hlow : bits w 23 0 = 0 := by
    simp only [decode, hop] at h
    exact (ifReservedZero_ok h).1
  have hw := w.isLt
  unfold bits at hop hlow
  apply BitVec.eq_of_toNat_eq
  simp only [BitVec.toNat_ofNat]
  omega

end Sys2Proof

namespace Sys2Proof.Machine

open Sys2Proof.Safety

/-- Settles O53: an illegal word leaves the table, and a command that is not CLRV moves its entries forward. -/
theorem verdictsMoveOnlyForward : Obligations.VerdictsMoveOnlyForward := by
  intro s t p n h hne
  rcases step_cases h with ⟨-, rfl⟩ | ⟨rest, hin, -⟩ | ⟨w, rest, i, hin, hdec, hexec⟩ | ⟨w, rest, -, rfl⟩
  · exact Forward.refl _
  · exact absurd hin (hne rest).1
  · refine exec_forward hexec ?_ p n
    rintro rfl
    exact (hne rest).2 (decode_eq_clrv hdec ▸ hin)
  · exact Forward.refl _

/-- Settles O6: the queue decides, and a word that decodes runs as its command. -/
theorem stepRunsThePresentedCommand : Obligations.StepRunsThePresentedCommand := by
  refine ⟨fun s w i rest hin hdec => ⟨(opcode_and_wf_of_decode hdec).2, ?_⟩, fun s rest hin => step_reset hin,
    fun s hin => step_nil hin, fun s w => ?_⟩
  · rw [step_command hin, runWord_ok hdec]
    rfl
  · have hw : commandWord 32 w.toNat = w := by
      rw [commandWord, Nat.mod_eq_of_lt w.isLt]
      exact ofNat_eq_of_toNat rfl
    rw [State.withFetchWord, hw]
    exact step_command rfl

end Sys2Proof.Machine
end

section
/-! PROOFS (10_state.md R10 to R27). The invariant: it holds after reset, each update keeps it where its new values are legal, and
so every step keeps it. -/

namespace Sys2Proof.Safety

open Sys2Proof.Machine

/-- What the host presents and what was answered are no part of the invariant. -/
theorem EngineInv.setInput {s : State} (h : EngineInv s) (l : List HostEvent) : EngineInv (s.setInput l) := { h with }

theorem EngineInv.answer {s : State} (h : EngineInv s) (d : Response) : EngineInv (s.answer d) := { h with }

-- The error record and the checksum registers.

theorem errorCode_range (e : CmdError) : 1 ≤ e.code.toNat ∧ e.code.toNat ≤ 4 := by cases e <;> decide

theorem EngineInv.recordError {s : State} (h : EngineInv s) (e : CmdError) (w : Word) : EngineInv (s.recordError e w) :=
  { h with
    errClear := fun hf => absurd hf (by simp)
    errSet := fun _ => by
      rw [State.recordError_status, Status.recordError_errCode]
      split
      · exact h.errSet ‹_›
      · exact errorCode_range e }

theorem EngineInv.clearErrorRecord {s : State} (h : EngineInv s) : EngineInv s.clearErrorRecord :=
  { h with
    errClear := fun _ => ⟨rfl, rfl⟩
    errSet := fun ht => absurd ht (by simp) }

/-- The sum of a region inside a buffer fits CS_ACC with room to spare (R103). -/
theorem acc_region_le {b : Buf} {off len : Nat} (m : Memory) (h : off + len ≤ cap b) :
    acc (m.readBytes off len) ≤ 0x03FFFC00 := by
  have hacc := acc_le (m.readBytes off len)
  rw [Memory.length_readBytes] at hacc
  have hlen : len ≤ 2048 := by cases b <;> simp [cap, Config.rxCap, Config.txCap] at h <;> omega
  omega

theorem EngineInv.setChecksum {s : State} (h : EngineInv s) {bytes : List Byte} {c : Half} (hc : csum bytes = some c)
    (hle : acc bytes ≤ 0x03FFFC00) : EngineInv { s with csAcc := .ofNat 32 (acc bytes), csRes := c } :=
  have hacc : (BitVec.ofNat 32 (acc bytes)).toNat = acc bytes := by rw [BitVec.toNat_ofNat]; omega
  { h with checksum := .inr ⟨hacc.trans_le hle, by rw [hacc]; exact (csum_eq_some_iff.1 hc).2⟩ }

-- The buffers.

theorem EngineInv.setBuf_write {s : State} (h : EngineInv s) (b : Buf) {off : Nat} (v : Byte) (hoff : off < cap b) :
    EngineInv (s.setBuf b ((s.buf b).write off v)) := by
  cases b with
  | rx => exact { h with rxbuf := ⟨Memory.wf_write h.rxbuf.1 off v, Sparse.keys_set h.rxbuf.2 hoff v⟩ }
  | tx => exact { h with txbuf := ⟨Memory.wf_write h.txbuf.1 off v, Sparse.keys_set h.txbuf.2 hoff v⟩ }

theorem EngineInv.builds {s : State} (h : EngineInv s) {i : Instr} {bytes : List Byte} (hb : Builds s i bytes) :
    EngineInv (s.setTx bytes) :=
  have hle := hb.length_le
  { h with
    txbuf := ⟨Memory.wf_writeBytes bytes 0 h.txbuf.1, Memory.keys_writeBytes bytes 0 h.txbuf.2 (by omega)⟩
    txLen := by rw [hb.txLen_toNat]; exact List.mem_cons_of_mem 0 hb.length_mem }

-- The parse result registers and RES.

theorem prKindWord_fields {depth : Nat} (hd : depth ≤ 2) (ch : Channel) (kind : BitVec 3) :
    (prKindWord depth ch kind).extractLsb' 0 3 = kind ∧ (prKindWord depth ch kind).getLsbD 3 = false ∧
      (prKindWord depth ch kind).extractLsb' 6 2 = 0#2 ∧ (prKindWord depth ch kind).extractLsb' 8 2 = BitVec.ofNat 2 depth := by
  revert kind
  interval_cases depth <;> cases ch <;> decide

/-- The clauses of `PrLegal` with the kind and the depth that PR_KIND was made from in the place of its fields. -/
theorem PrLegal.of_kind {pr : ParseRegs} {depth : Nat} {ch : Channel} {kind : BitVec 3}
    (hpr : pr.kind = prKindWord depth ch kind) (hd : depth ≤ 2) (hrange : 1 ≤ kind.toNat ∧ kind.toNat ≤ 4)
    (hoff : pr.off.toNat ≤ 60) (htcp : kind = 1#3 → depth = 0 ∧ pr.icmp = 0 ∧ pr.eproto = 0 ∧ pr.eports = 0)
    (hicmp : kind = 2#3 ∨ kind = 3#3 →
      pr.ports = 0 ∧ pr.flags = 0 ∧ (depth = 0 → pr.eproto = 0) ∧ (depth ≠ 2 → pr.eports = 0))
    (htrunc : kind = 4#3 → depth = 0 ∧ pr.off = 0 ∧ pr.ports = 0 ∧ pr.flags = 0 ∧ pr.icmp = 0 ∧ pr.eproto = 0 ∧
      pr.eports = 0) : PrLegal pr := by
  obtain ⟨hkind, hbit, hbits, hdepth⟩ := prKindWord_fields hd ch kind
  rw [← hpr] at hkind hbit hbits hdepth
  have hzero : pr.kind.extractLsb' 8 2 = 0#2 ↔ depth = 0 := by
    rw [hdepth]
    interval_cases depth <;> decide
  have htwo : pr.kind.extractLsb' 8 2 = 2#2 ↔ depth = 2 := by
    rw [hdepth]
    interval_cases depth <;> decide
  constructor
  case kindRange => exact hkind ▸ hrange.2
  case bit3 => exact hbit
  case bits76 => exact hbits
  case depthRange =>
    rw [hdepth, BitVec.toNat_ofNat]
    omega
  case offRange => exact hoff
  case ofNone =>
    intro h
    rw [← hkind, h] at hrange
    exact absurd hrange.1 (by decide)
  case ofTcp => simpa only [hkind, hzero] using htcp
  case ofIcmp => simpa only [hkind, hzero, ne_eq, htwo] using hicmp
  case ofTrunc => simpa only [hkind, hzero] using htrunc

/-- The registers of a parse result of the shape every parse has (R20, R167). -/
theorem parseRegs_legal (ch : Channel) {r : Parsed} (h : r.shape) : PrLegal (parseRegs ch r) := by
  have hoff {n : Nat} (hn : n ≤ 60) : (BitVec.ofNat 6 n).toNat ≤ 60 :=
    (BitVec.toNat_ofNat n 6).trans_le ((Nat.mod_le _ _).trans hn)
  cases r with
  | trunc =>
    exact .of_kind rfl (by decide) (by decide) (hoff (Nat.zero_le 60)) nofun nofun fun _ => ⟨rfl, rfl, rfl, rfl, rfl, rfl, rfl⟩
  | tcp off sport dport flags =>
    exact .of_kind rfl (by decide) (by decide) (hoff h) (fun _ => ⟨rfl, rfl, rfl, rfl⟩) nofun nofun
  | icmp ver base type code depth eproto esport edport =>
    obtain ⟨hbase, hshape⟩ := h
    have hdepth : depth ≤ 2 := by omega
    have hrange : 1 ≤ (icmpKind ver).toNat ∧ (icmpKind ver).toNat ≤ 4 := by cases ver <;> decide
    have heproto : depth = 0 → eproto = 0 := by
      intro h0
      rcases hshape with ⟨-, he, -⟩ | ⟨h1, -⟩ | ⟨h2, -⟩
      · exact he
      · omega
      · omega
    have heports : depth ≠ 2 → esport ++ edport = (0 : BitVec 32) := by
      intro hne
      rcases hshape with ⟨-, -, rfl, rfl⟩ | ⟨-, -, rfl, rfl⟩ | ⟨rfl, -⟩
      · rfl
      · rfl
      · exact absurd rfl hne
    exact .of_kind rfl hdepth hrange (hoff hbase) (by cases ver <;> nofun) (fun _ => ⟨rfl, rfl, heproto, heports⟩)
      (by cases ver <;> nofun)

theorem EngineInv.setPr {s : State} (h : EngineInv s) {pr : ParseRegs} (hpr : PrLegal pr) : EngineInv (s.setPr pr) :=
  { h with pr := hpr }

theorem EngineInv.setParsed {s : State} (h : EngineInv s) (ch : Channel) : EngineInv (s.setPr (parseRegs ch (s.parsed ch))) :=
  h.setPr (parseRegs_legal ch (parse_shape ..))

theorem EngineInv.setRes {s : State} (h : EngineInv s) {r : BitVec 24} (hr : resLegal r) : EngineInv (s.setRes r) :=
  { h with res := hr }

/-- RES of a candidate is legal with each of the three outcomes of a candidate. -/
theorem resLegal_resWord {r : Parsed} {sp : Half} {c : Candidate} (hc : candidate r sp = some c) {o : ClassOutcome}
    (ho : o = .updated ∨ o = .noProbe ∨ o = .dup) : resLegal (resWord o c) := by
  obtain ⟨hout, hver, hproto, -⟩ := resWord_fields o c
  refine .inr (.inl ?_)
  rw [hout, hver, hproto]
  refine ⟨?_, ?_, ?_⟩
  · rcases ho with rfl | rfl | rfl <;> decide
  · rcases ho with rfl | rfl | rfl <;> decide
  · rcases candidate_verdict hc with hv | ⟨hv, hp⟩
    · exact .inl (by rw [hv]; rfl)
    · exact .inr ⟨by rw [hv]; rfl, hp⟩

theorem resLegal_parseErr : resLegal (resNone .parseErr) := .inr (.inr (.inr rfl))

theorem resLegal_ignored : resLegal (resNone .ignored) := .inr (.inr (.inl rfl))

-- The verdict table and the event.

/-- The verdict an event names is terminal. -/
theorem resVerdict_of_event {w : BitVec 24} (h : resLegal w) (ho : resOutcome w = 1) : resVerdict w = 2 ∨ resVerdict w = 3 := by
  rcases h with rfl | ⟨-, -, hv | ⟨hv, -⟩⟩ | rfl | rfl
  · exact absurd ho (by decide)
  · exact .inr hv
  · exact .inl hv
  · exact absurd ho (by decide)
  · exact absurd ho (by decide)

/-- The entry that EVT names is resolved, so no command but CLRV writes it again (R195). -/
theorem EngineInv.event_terminal {s : State} (h : EngineInv s) (he : s.evt ≠ 0#24) :
    terminal (s.verdict (resProto s.evt) (resPort s.evt)) = true := by
  have hrec := h.recorded he
  obtain ⟨hlegal, hout⟩ := h.evt.resolve_left he
  rcases resVerdict_of_event hlegal hout with hv | hv <;> rw [hv] at hrec <;>
    cases hs : s.verdict (resProto s.evt) (resPort s.evt) <;> simp [hs, verdictCode] at hrec <;> rfl

/-- An entry that is not terminal can be written: no event names it. -/
theorem EngineInv.setVerdict {s : State} (h : EngineInv s) {p : Proto} {n : Half}
    (hnt : terminal (s.verdict p n) = false) (v : Verdict) : EngineInv (s.setVerdict p n v) :=
  { h with
    vt := ⟨State.wf_setVerdict p n v h.vt.1, Sparse.keys_set h.vt.2 (vtKey_lt p n) v⟩
    recorded := fun he => by
      have hne : ¬(p = resProto s.evt ∧ n = resPort s.evt) := by
        rintro ⟨rfl, rfl⟩
        exact absurd (h.event_terminal he) (by simp [hnt])
      rw [State.setVerdict_evt, State.verdict_setVerdict, if_neg hne]
      exact h.recorded he }

/-- The event of an updating CLASSIFY names the entry it has just written. -/
theorem EngineInv.setEvent {s : State} (h : EngineInv s) {r : Parsed} {sp : Half} {c : Candidate}
    (hc : candidate r sp = some c) (hp : s.verdict c.proto c.port = .pending) :
    EngineInv (s.setEvent c (resWord .updated c)) := by
  obtain ⟨hout, hver, hproto, hport⟩ := resWord_fields .updated c
  have hlegal := resLegal_resWord hc (.inl rfl)
  have hne : resWord .updated c ≠ 0#24 := fun h0 => by
    rw [h0] at hout
    exact absurd hout (by decide)
  exact { h.setVerdict (hp ▸ rfl : terminal (s.verdict c.proto c.port) = false) c.verdict with
    evt := .inr ⟨hlegal, hout⟩
    pending := fun _ => hne
    recorded := fun _ => by
      rw [State.setEvent_evt, hproto, hport, hver, State.verdict_setEvent, if_pos ⟨rfl, rfl⟩] }

theorem EngineInv.ack {s : State} (h : EngineInv s) : EngineInv { s with status := s.status.withPend false } :=
  { h with pending := fun ht => absurd ht (by simp) }

theorem EngineInv.clrv {s : State} (h : EngineInv s) :
    EngineInv { s with vt := [], evt := 0#24, status := s.status.withPend false } :=
  { h with
    vt := ⟨⟨.nil, by simp⟩, by simp⟩
    evt := .inl rfl
    pending := fun ht => absurd ht (by simp)
    recorded := fun he => absurd rfl he }

end Sys2Proof.Safety

namespace Sys2Proof.Machine

open Sys2Proof.Safety

-- The commands and the step.

/-- Settles O8: every component is 0, empty or ABSENT. -/
theorem resetMeetsTheInvariant : Obligations.ResetMeetsTheInvariant where
  rxbuf := ⟨State.reset_memories_wf.2.1, by simp [State.reset]⟩
  txbuf := ⟨State.reset_memories_wf.1, by simp [State.reset]⟩
  vt := ⟨State.reset_memories_wf.2.2, by simp [State.reset]⟩
  txLen := by simp [State.reset]
  rxLen := by simp [State.reset]
  errClear := fun _ => ⟨rfl, rfl⟩
  errSet := fun h => absurd h (by simp [State.reset])
  checksum := .inl ⟨rfl, rfl⟩
  pr := by constructor <;> simp [State.reset]
  res := .inl rfl
  evt := .inl rfl
  pending := fun h => absurd h (by simp [State.reset])
  recorded := fun h => absurd rfl h

/-- A command that completes keeps the invariant. -/
theorem Completes.keeps_inv {s u : State} {i : Instr} (h : Completes s i u) (hs : EngineInv s) : EngineInv u := by
  cases h with
  | nop | getr | ldb | getv | armKeeps | setvKeeps => exact hs
  | setaf r => cases r <;> exact { hs with }
  | setah r => cases r <;> exact { hs with }
  | setsp | setdp | setctl => exact { hs with }
  | clrerr => exact hs.clearErrorRecord
  | ack => exact hs.ack
  | stb b off v hoff => exact hs.setBuf_write b v hoff
  | setrxlen len hlen =>
    have hlen' : (BitVec.ofNat 12 len).toNat ≤ 2048 := (BitVec.toNat_ofNat len 12).trans_le ((Nat.mod_le _ _).trans hlen)
    exact { hs with rxLen := hlen' }
  | csum b off len c hle hc => exact hs.setChecksum hc (acc_region_le _ hle)
  | builds hb => exact hs.builds hb
  | parse ch => exact hs.setParsed ch
  | classifyTruncated ch => exact (hs.setParsed ch).setRes resLegal_parseErr
  | classifyIgnored ch => exact (hs.setParsed ch).setRes resLegal_ignored
  | classifyUpdates ch c hc hp => exact ((hs.setParsed ch).setEvent hc hp).setRes (resLegal_resWord hc (.inl rfl))
  | classifyKeeps ch c hc hv =>
    exact (hs.setParsed ch).setRes (resLegal_resWord hc (.inr (correlateOutcome_of_ne_pending hv)))
  | arms p n hv => exact hs.setVerdict (by rw [hv]; rfl) _
  | resolves p n v t _ hv => exact hs.setVerdict (by rw [hv]; rfl) t
  | clrv => exact hs.clrv

/-- Settles O9: waiting changes nothing, reset gives the reset state, a word completes or raises. -/
theorem stepKeepsTheInvariant : Obligations.StepKeepsTheInvariant := by
  intro s t hs h
  rcases step_cases h with ⟨-, rfl⟩ | ⟨rest, -, rfl⟩ | ⟨w, rest, i, -, -, hexec⟩ | ⟨w, rest, -, rfl⟩
  · exact hs
  · exact EngineInv.setInput resetMeetsTheInvariant rest
  · rcases exec_cases hexec with ⟨u, d, hu, rfl⟩ | ⟨e, rfl⟩
    · exact (hu.keeps_inv (hs.setInput rest)).answer _
    · exact ((hs.setInput rest).recordError e _).answer _
  · exact ((hs.setInput rest).recordError .illegal w).answer _

end Sys2Proof.Machine
end

section
/-! PROOFS (10_state.md R12, R27). GETR reads the register its selector names; the values after reset. -/

namespace Sys2Proof.Machine

open Sys2Proof.Safety

/-- The table of R12 as the claims state it is the selector table with what GETR reads through each selector. -/
theorem registerValues_eq (s : State) :
    registerValues s = selectorTable.map fun row => (row.1.toNat, (row.2.read s).toNat) := by
  simp [registerValues, selectorTable, RegName.read, Status.word_toNat, Addr.word_toNat, AF.code_toNat, List.range_succ,
    BitVec.toNat_setWidth_of_le, -BitVec.toNat_setWidth]

/-- A selector names at most one register. -/
theorem RegName.ofSelector_of_mem {sel : BitVec 8} {r : RegName} (h : (sel, r) ∈ selectorTable) :
    RegName.ofSelector sel = some r := by
  have hall : ∀ row ∈ selectorTable, RegName.ofSelector row.1 = some row.2 := by decide
  exact hall _ h

/-- A selector has a value in the table of R12 exactly if it names the register with that value. -/
theorem mem_registerValues_iff {s : State} {sel : BitVec 8} {v : Nat} :
    (sel.toNat, v) ∈ registerValues s ↔ ∃ r, RegName.ofSelector sel = some r ∧ (r.read s).toNat = v := by
  rw [registerValues_eq, List.mem_map]
  constructor
  · rintro ⟨⟨sel', r⟩, hmem, heq⟩
    obtain ⟨hsel, hv⟩ := Prod.ext_iff.1 heq
    obtain rfl := BitVec.eq_of_toNat_eq hsel
    exact ⟨r, RegName.ofSelector_of_mem hmem, hv⟩
  · rintro ⟨r, hr, hv⟩
    obtain ⟨l, l', htable, -⟩ := List.lookup_eq_some_iff.1 hr
    exact ⟨(sel, r), by rw [htable]; simp, by rw [hv]⟩

/-- The word of GETR decodes to it (R61, R71). -/
theorem decode_getr (sel : BitVec 8) : decode (encode (.getr sel)) = .ok (.getr sel) := by
  obtain ⟨hlt, hopcode⟩ := Laws.EncodeFits.getr sel rfl
  have hfield := bits_encode hlt
  have hsel := sel.isLt
  simp only [encodeNat, Instr.opcode] at hfield hopcode
  have hop : bits (encode (.getr sel)) 31 24 = 0x06 := by rw [hfield]; omega
  have hreserved : bits (encode (.getr sel)) 23 8 = 0 := by rw [hfield]; omega
  have hlow : bits (encode (.getr sel)) 7 0 = sel.toNat := by rw [hfield]; omega
  simp only [decode, hop]
  rw [ifReservedZero_of_eq_zero hreserved, ofNat_eq_of_toNat hlow]

/-- Settles O19: the selector table is the table of R12, and a selector outside it names no register. -/
theorem getrReadsTheSelectedRegister : Obligations.GetrReadsTheSelectedRegister := by
  intro sel s
  refine ⟨decode_getr sel, ?_, ?_, ?_⟩
  · intro v hv
    obtain ⟨r, hr, rfl⟩ := mem_registerValues_iff.1 hv
    show execGetr sel s = _
    rw [execGetr, hr]
    simp only [respond_next, okResp, BitVec.ofNat_toNat, BitVec.setWidth_eq]
    rfl
  · have hsome : (∃ v, (sel.toNat, v) ∈ registerValues s) ↔ RegName.ofSelector sel ≠ none := by
      simp [mem_registerValues_iff, Option.ne_none_iff_exists']
    rw [hsome, ne_eq, RegName.ofSelector_eq_none_iff]
    omega
  · intro hsel
    show execGetr sel s = _
    rw [execGetr, (RegName.ofSelector_eq_none_iff sel).2 hsel]
    exact raise_eq_raised .operand _ s

/-- Settles O7: the registers are written out in the reset state, and the empty lists read 0x00 and ABSENT. -/
theorem resetValues : Obligations.ResetValues := by
  have haddr : ∀ i, i < 16 → addrByte (Vector.replicate 16 0x00#8) i = 0 := fun i hi => by
    rw [addrByte_eq _ hi, Vector.getElem_replicate]
    rfl
  refine ⟨fun i hi => ⟨haddr i hi, haddr i hi⟩, rfl, rfl, rfl, rfl, rfl, rfl, rfl, rfl, rfl, rfl, rfl, rfl, rfl, rfl, ?_,
    fun _ _ => rfl, rfl⟩
  intro b off
  cases b <;> rfl

end Sys2Proof.Machine
end

section
/-! PROOFS (45_parser_classifier.md R158). The parser reads no byte at or beyond RX_LEN. -/

namespace Sys2Proof.Machine

/-- Two buffers hold the same first `L` bytes. -/
def AgreeBelow (L : Nat) (rx rx' : Memory) : Prop := ∀ k, k < L → rx.read k = rx'.read k

section
variable {L : Nat} {rx rx' : Memory}

/-- What follows a `need` may use that the bytes it asked for are there. -/
theorem need_congr {n : Nat} {k k' : Parsed} (h : n ≤ L → k = k') : need L n k = need L n k' := by
  unfold need
  split
  · rfl
  · exact h (not_lt.1 ‹_›)

theorem AgreeBelow.rx16 (h : AgreeBelow L rx rx') {i : Nat} (hi : i + 2 ≤ L) : rx16 rx i = rx16 rx' i := by
  unfold Machine.rx16
  rw [h i (by omega), h (i + 1) (by omega)]

theorem AgreeBelow.headerLen (h : AgreeBelow L rx rx') {i : Nat} (hi : i < L) : headerLen rx i = headerLen rx' i := by
  unfold Machine.headerLen
  rw [h i hi]

theorem AgreeBelow.tcpFields (h : AgreeBelow L rx rx') (off : Nat) : tcpFields rx L off = tcpFields rx' L off :=
  need_congr fun hn => by rw [h.rx16 (i := off) (by omega), h.rx16 (i := off + 2) (by omega), h (off + 13) (by omega)]

theorem AgreeBelow.parseTcp4 (h : AgreeBelow L rx rx') (sp : Half) : parseTcp4 rx L sp = parseTcp4 rx' L sp :=
  need_congr fun hn => by
    have hoff : tcp4Offset rx sp = tcp4Offset rx' sp := by
      unfold tcp4Offset
      rw [h.rx16 (i := 2) (by omega), h.headerLen (i := 0) (by omega)]
    rw [hoff, h.tcpFields]

theorem AgreeBelow.parseIcmp4At (h : AgreeBelow L rx rx') (base : Nat) :
    parseIcmp4At rx L base = parseIcmp4At rx' L base :=
  need_congr fun hn => by
    rw [h base (by omega), h (base + 1) (by omega)]
    refine if_congr Iff.rfl rfl (need_congr fun he => ?_)
    rw [h (base + 8 + 9) (by omega), h.headerLen (i := base + 8) (by omega)]
    refine if_congr Iff.rfl rfl (need_congr fun ht => ?_)
    rw [h.rx16 (by omega), h.rx16 (by omega)]

theorem AgreeBelow.parseIcmp4 (h : AgreeBelow L rx rx') (iphdr : Bool) : parseIcmp4 rx L iphdr = parseIcmp4 rx' L iphdr := by
  unfold Machine.parseIcmp4
  refine if_congr Iff.rfl (need_congr fun hn => ?_) (h.parseIcmp4At 0)
  rw [h.headerLen (i := 0) (by omega), h.parseIcmp4At]

theorem AgreeBelow.parseIcmp6 (h : AgreeBelow L rx rx') : parseIcmp6 rx L = parseIcmp6 rx' L :=
  need_congr fun hn => by
    rw [h 0 (by omega), h 1 (by omega)]
    refine if_congr Iff.rfl rfl (need_congr fun hn => ?_)
    rw [h 14 (by omega)]
    refine if_congr Iff.rfl rfl (need_congr fun hn => ?_)
    rw [h.rx16 (i := 48) (by omega), h.rx16 (i := 50) (by omega)]

/-- A parse of `L` bytes depends on the first `L` bytes alone. -/
theorem AgreeBelow.parse (h : AgreeBelow L rx rx') (ch : Channel) (sp : Half) (iphdr : Bool) :
    parse ch rx L sp iphdr = parse ch rx' L sp iphdr := by
  cases ch with
  | tcp4 => exact h.parseTcp4 sp
  | tcp6 => exact h.tcpFields 0
  | icmp4 => exact h.parseIcmp4 iphdr
  | icmp6 => exact h.parseIcmp6

end

/-- From the parse result on CLASSIFY neither reads nor writes RXBUF. -/
theorem classifyParsed_setBuf_rx (r : Parsed) (s : State) (m : Memory) :
    ∃ t, classifyParsed r s = .next t ∧ classifyParsed r (s.setBuf .rx m) = .next (t.setBuf .rx m) := by
  unfold classifyParsed
  split
  · exact ⟨_, rfl, rfl⟩
  · have hport : (s.setBuf .rx m).srcPort = s.srcPort := rfl
    rw [hport]
    cases candidate r s.srcPort with
    | none => exact ⟨_, rfl, rfl⟩
    | some c =>
      refine ⟨_, rfl, ?_⟩
      show answerRes _ (if correlateOutcome (s.verdict c.proto c.port) = .updated then
        (s.setEvent c (resWord (correlateOutcome (s.verdict c.proto c.port)) c)).setBuf .rx m else s.setBuf .rx m) = _
      rw [← apply_ite (State.setBuf .rx m)]
      rfl

/-- Settles O42: the parse is the same, and what follows it does not look at RXBUF. -/
theorem parserReadsOnlyTheDatagram : Obligations.ParserReadsOnlyTheDatagram := by
  intro ch i s m hi hagree
  have hparsed : State.parsed { s with rxbuf := m } ch = s.parsed ch := AgreeBelow.parse hagree ch _ _
  rcases hi with rfl | rfl
  · refine ⟨_, rfl, ?_⟩
    show execParse ch _ = _
    rw [execParse, hparsed]
    rfl
  · obtain ⟨t, hs, hm⟩ := classifyParsed_setBuf_rx (s.parsed ch) (s.setPr (parseRegs ch (s.parsed ch))) m
    refine ⟨t, hs, ?_⟩
    show execClassify ch _ = _
    rw [execClassify, hparsed]
    exact hm

end Sys2Proof.Machine
end

section
/-! PROOFS (20_memory.md R44, R50). A byte stored by STB is what the next LDB answers; an offset or a length that no field holds
is out of range. -/

namespace Sys2Proof.Machine

open Sys2Proof.Safety

-- STB and LDB inside the buffer.

/-- Every offset inside a buffer fits the offset field (R44, R63). -/
theorem capacity_le_offsets (b : Buf) : capacity b ≤ 2048 := by cases b <;> decide

/-- The word of STB decodes to it, for every offset its field holds (R61, R71). -/
theorem decode_stb {b : Buf} {off : Nat} (data : Byte) (hoff : off < 2048) :
    decode (encode (.stb b off data)) = .ok (.stb b off data) := by
  obtain ⟨hlt, hopcode⟩ := Laws.EncodeFits.stb b off data (decide_eq_true hoff)
  have hfield := bits_encode hlt
  have hdata := data.isLt
  have hcode := Buf.code_lt b
  simp only [encodeNat, Instr.opcode] at hfield hopcode
  have hop : bits (encode (.stb b off data)) 31 24 = 0x10 := by rw [hfield]; omega
  have hreserved : bits (encode (.stb b off data)) 22 19 = 0 := by rw [hfield]; omega
  have hbuf : bits (encode (.stb b off data)) 23 23 = b.code := by rw [hfield]; omega
  have hmid : bits (encode (.stb b off data)) 18 8 = off := by rw [hfield]; omega
  have hlow : bits (encode (.stb b off data)) 7 0 = data.toNat := by rw [hfield]; omega
  simp only [decode, hop]
  rw [ifReservedZero_of_eq_zero hreserved, Buf.ofCode_eq hbuf, hmid, ofNat_eq_of_toNat hlow]

/-- The word of LDB decodes to it, for every offset its field holds (R61, R71). -/
theorem decode_ldb {b : Buf} {off : Nat} (hoff : off < 2048) : decode (encode (.ldb b off)) = .ok (.ldb b off) := by
  obtain ⟨hlt, hopcode⟩ := Laws.EncodeFits.ldb b off (decide_eq_true hoff)
  have hfield := bits_encode hlt
  have hcode := Buf.code_lt b
  simp only [encodeNat, Instr.opcode] at hfield hopcode
  have hop : bits (encode (.ldb b off)) 31 24 = 0x11 := by rw [hfield]; omega
  have hreserved : bits (encode (.ldb b off)) 22 19 + bits (encode (.ldb b off)) 7 0 = 0 := by rw [hfield, hfield]; omega
  have hbuf : bits (encode (.ldb b off)) 23 23 = b.code := by rw [hfield]; omega
  have hmid : bits (encode (.ldb b off)) 18 8 = off := by rw [hfield]; omega
  simp only [decode, hop]
  rw [ifReservedZero_of_eq_zero hreserved, Buf.ofCode_eq hbuf, hmid]

/-- STB inside the buffer writes the byte and answers 0 (R89). -/
theorem execStb_inside {b : Buf} {off : Nat} (data : Byte) (s : State) (hoff : off < capacity b) :
    execStb b off data s = respond 0#32 (s.setBuf b ((s.buf b).write off data)) :=
  if_neg (cap_eq_capacity b ▸ not_le.2 hoff)

/-- LDB inside the buffer answers the byte at the offset (R90). -/
theorem execLdb_inside {b : Buf} {off : Nat} (s : State) (hoff : off < capacity b) :
    execLdb b off s = respond ((s.readByte b off).setWidth 32) s :=
  if_neg (cap_eq_capacity b ▸ not_le.2 hoff)

/-- A step on a presented word that encodes a command runs the command. -/
theorem step_encoded {s : State} {i : Instr} {rest : List HostEvent} (hin : s.input = .command (encode i) :: rest)
    (hdec : decode (encode i) = .ok i) : step s = exec i (s.setInput rest) := by
  rw [step_command hin, runWord_ok hdec]

/-- The step that takes an STB inside the buffer leaves the rest presented and the byte at the offset. -/
theorem step_stb {s : State} {b : Buf} {off : Nat} {data : Byte} {rest : List HostEvent} (hoff : off < capacity b)
    (hin : s.input = .command (encode (.stb b off data)) :: rest) :
    ∃ t, step s = .next t ∧ t.input = rest ∧ t.readByte b off = data := by
  have hdec := decode_stb (b := b) data (hoff.trans_le (capacity_le_offsets b))
  refine ⟨_, (step_encoded hin hdec).trans (execStb_inside data _ hoff), State.setBuf_input _ b _, ?_⟩
  rw [State.readByte_answer, State.readByte_setBuf_write, if_pos ⟨rfl, rfl⟩]

/-- The step that takes an LDB inside the buffer leaves the rest presented and answers the byte at the offset. -/
theorem step_ldb {s : State} {b : Buf} {off : Nat} {rest : List HostEvent} (hoff : off < capacity b)
    (hin : s.input = .command (encode (.ldb b off)) :: rest) :
    ∃ u, step s = .next u ∧ u.input = rest ∧ u.resp = okResp (s.readByte b off).toNat := by
  have hdec := decode_ldb (b := b) (hoff.trans_le (capacity_le_offsets b))
  refine ⟨_, (step_encoded hin hdec).trans (execLdb_inside _ hoff), rfl, ?_⟩
  rw [State.readByte_congr (s := s) rfl rfl, okResp, BitVec.ofNat_toNat]
  rfl

/-- Settles O15: the STB leaves the LDB presented and the byte at the offset, and the LDB answers what stands there. -/
theorem storedByteIsReadByTheNextCommand : Obligations.StoredByteIsReadByTheNextCommand := by
  intro s b off data rest hoff hin
  obtain ⟨t, hstb, htin, hbyte⟩ := step_stb hoff hin
  obtain ⟨u, hldb, huin, hresp⟩ := step_ldb hoff htin
  exact ⟨t, u, hstb, hldb, huin, hbyte ▸ hresp⟩

-- Operands that no field holds.

/-- A command that ends with an error code has raised that error, and nothing else. -/
theorem Ends.eq_raised {s : State} {w : Word} {code : Nat} {r : Result} (h : Ends s w code r) (hcode : code ≠ 0) :
    r = .next (raised code w s) := by
  cases h with
  | completes => exact absurd rfl hcode
  | raises e => exact raise_eq_raised e w s

/-- Only a CSUM of no byte just behind RXBUF has an operand that no field holds and stays inside the buffer: an offset of 2048
or more is outside otherwise, and so is every length of 4096 or more (R44). -/
theorem errorCause_of_not_wf {i : Instr} (s : State) (hwf : i.wf = false) (hne : i ≠ .csum .rx 2048 0) :
    errorCause s i = 3 := by
  cases i with
  | stb b off data =>
    have hcap := capacity_le_offsets b
    simp only [Instr.wf, offFits, decide_eq_false_iff_not] at hwf
    exact if_pos (by omega)
  | ldb b off =>
    have hcap := capacity_le_offsets b
    simp only [Instr.wf, offFits, decide_eq_false_iff_not] at hwf
    exact if_pos (by omega)
  | setrxlen len =>
    simp only [Instr.wf, lenFits, decide_eq_false_iff_not] at hwf
    exact if_pos (by omega)
  | csum b off len =>
    simp only [Instr.wf, offFits, lenFits, Bool.and_eq_false_iff, decide_eq_false_iff_not] at hwf
    refine if_pos ?_
    cases b with
    | rx =>
      have hbehind : ¬(off = 2048 ∧ len = 0) := by
        rintro ⟨rfl, rfl⟩
        exact hne rfl
      simp only [capacity]
      omega
    | tx =>
      simp only [capacity]
      omega
  | _ => cases hwf

/-- CSUM of no byte, at an offset that is at most the capacity, answers the checksum of the empty sequence (R104, R106). -/
theorem execCsum_no_byte {b : Buf} {off : Nat} (s : State) (hoff : off ≤ cap b) :
    execCsum b off 0 s = .next { s with csAcc := 0#32, csRes := 0xFFFF#16, resp := okResp 0xFFFF } := by
  obtain ⟨c, hc, hexec⟩ := execCsum_inside (b := b) (off := off) (len := 0) s (not_lt.2 hoff)
  have hsome : csum ((s.buf b).readBytes off 0) = some 0xFFFF#16 := by
    rw [csum_eq_some_iff]
    exact ⟨Nat.zero_le _, rfl⟩
  obtain rfl : c = 0xFFFF#16 := Option.some.inj (hc.symm.trans hsome)
  exact hexec

/-- Settles O54: such an operand is out of range, so the command ends by raising ERR_RANGE. -/
theorem operandsThatNoFieldHolds : Obligations.OperandsThatNoFieldHolds := by
  refine ⟨fun i s hwf hne => ?_, rfl, fun s => execCsum_no_byte s le_rfl⟩
  have hends := exec_ends i s
  rw [errorCause_of_not_wf s hwf hne] at hends
  exact hends.eq_raised (by decide)

end Sys2Proof.Machine
end

section
/-! PROOFS (30_encoding.md R61, R65, R71). The two round trips: a well-formed command is read back from its word, field by field,
and a word that decodes is the sum of its command's fields. -/

namespace Sys2Proof

/-- The lemma of Laws/PerInstr.lean for each command, as one. -/
theorem encodeFits (i : Instr) : Laws.EncodeFits.Statement i := by
  cases i with
  | nop => exact Laws.EncodeFits.nop
  | setaf r af => exact Laws.EncodeFits.setaf r af
  | setah r idx imm16 => exact Laws.EncodeFits.setah r idx imm16
  | setsp imm16 => exact Laws.EncodeFits.setsp imm16
  | setdp imm16 => exact Laws.EncodeFits.setdp imm16
  | setctl k => exact Laws.EncodeFits.setctl k
  | getr sel => exact Laws.EncodeFits.getr sel
  | clrerr => exact Laws.EncodeFits.clrerr
  | ack => exact Laws.EncodeFits.ack
  | stb b off data => exact Laws.EncodeFits.stb b off data
  | ldb b off => exact Laws.EncodeFits.ldb b off
  | setrxlen len => exact Laws.EncodeFits.setrxlen len
  | csum b off len => exact Laws.EncodeFits.csum b off len
  | bip4 p => exact Laws.EncodeFits.bip4 p
  | bip6 p => exact Laws.EncodeFits.bip6 p
  | btcp => exact Laws.EncodeFits.btcp
  | budp => exact Laws.EncodeFits.budp
  | build p => exact Laws.EncodeFits.build p
  | parse ch => exact Laws.EncodeFits.parse ch
  | classify ch => exact Laws.EncodeFits.classify ch
  | arm p port => exact Laws.EncodeFits.arm p port
  | setv p port v => exact Laws.EncodeFits.setv p port v
  | getv p port => exact Laws.EncodeFits.getv p port
  | clrv => exact Laws.EncodeFits.clrv

/-- Bits 31:24 of the word of a well-formed command are its opcode (R60). -/
theorem bits_encode_opcode {i : Instr} (h : i.wf = true) : bits (encode i) 31 24 = i.opcode := by
  obtain ⟨hlt, hopcode⟩ := encodeFits i h
  rw [bits_encode hlt]
  omega

theorem ifReservedZero_eq_ok {n : Nat} {i j : Instr} (hn : n = 0) (hij : i = j) : ifReservedZero n i = .ok j := by
  rw [ifReservedZero_of_eq_zero hn, hij]

/-- The word of a well-formed command decodes to it: in each format the reserved fields of the sum are 0, and each named field is
its operand. -/
theorem decode_encode {i : Instr} (hwf : i.wf = true) : decode (encode i) = .ok i := by
  have hop := bits_encode_opcode hwf
  have hfield := bits_encode (encodeFits i hwf).1
  cases i with
  | nop | clrerr | ack | btcp | budp | clrv => rfl
  | stb b off data => exact Machine.decode_stb data (of_decide_eq_true hwf)
  | ldb b off => exact Machine.decode_ldb (of_decide_eq_true hwf)
  | setaf r af =>
    have hr := r.code_lt
    have haf := af.isLt
    simp only [decode, hop, Instr.opcode, hfield, encodeNat]
    exact ifReservedZero_eq_ok (by omega) (congrArg₂ _ (AddrReg.ofCode_eq (by omega)) (ofNat_eq_of_toNat (by omega)))
  | setah r idx imm16 =>
    have hr := r.code_lt
    have hidx := idx.isLt
    have himm := imm16.isLt
    simp only [decode, hop, Instr.opcode, hfield, encodeNat]
    refine ifReservedZero_eq_ok (by omega) ?_
    rw [Instr.setah.injEq]
    exact ⟨AddrReg.ofCode_eq (by omega), fin_ofNat_eq (by omega), ofNat_eq_of_toNat (by omega)⟩
  | setsp v | setdp v | setctl v | getr v =>
    have hv := v.isLt
    simp only [decode, hop, Instr.opcode, hfield, encodeNat]
    exact ifReservedZero_eq_ok (by omega) (congrArg _ (ofNat_eq_of_toNat (by omega)))
  | setrxlen len =>
    have hlen : len < 4096 := of_decide_eq_true hwf
    simp only [decode, hop, Instr.opcode, hfield, encodeNat]
    exact ifReservedZero_eq_ok (by omega) (congrArg _ (by omega))
  | csum b off len =>
    have hb := b.code_lt
    simp only [Instr.wf, offFits, lenFits, Bool.and_eq_true, decide_eq_true_eq] at hwf
    simp only [decode, hop, Instr.opcode, hfield, encodeNat]
    rw [Except.ok.injEq, Instr.csum.injEq]
    exact ⟨Buf.ofCode_eq (by omega), by omega, by omega⟩
  | bip4 p | bip6 p | build p =>
    have hp := p.code_lt
    simp only [decode, hop, Instr.opcode, hfield, encodeNat]
    exact ifReservedZero_eq_ok (by omega) (congrArg _ (Proto.ofCode_eq (by omega)))
  | parse ch | classify ch =>
    have hch := ch.code_lt
    simp only [decode, hop, Instr.opcode, hfield, encodeNat]
    exact ifReservedZero_eq_ok (by omega) (congrArg _ (Channel.ofCode_eq (by omega)))
  | arm p port | getv p port =>
    have hp := p.code_lt
    have hport := port.isLt
    simp only [decode, hop, Instr.opcode, hfield, encodeNat]
    exact ifReservedZero_eq_ok (by omega) (congrArg₂ _ (Proto.ofCode_eq (by omega)) (ofNat_eq_of_toNat (by omega)))
  | setv p port v =>
    have hp := p.code_lt
    have hport := port.isLt
    have hv := v.isLt
    simp only [decode, hop, Instr.opcode, hfield, encodeNat]
    refine ifReservedZero_eq_ok (by omega) ?_
    rw [Instr.setv.injEq]
    exact ⟨Proto.ofCode_eq (by omega), ofNat_eq_of_toNat (by omega), ofNat_eq_of_toNat (by omega)⟩

/-- Settles O1: the fields of the sum of R71 do not overlap. -/
theorem decodeOfEncodeIsTheCommand : Obligations.DecodeOfEncodeIsTheCommand := fun _ hwf => decode_encode hwf

/-- A word that decodes is the sum of R71 of its command: the opcode, the named fields, and reserved fields that are 0. -/
theorem encodeNat_of_decode {w : Word} {i : Instr} (h : decode w = .ok i) : encodeNat i = w.toNat := by
  have hw := w.isLt
  unfold decode at h
  split at h
  case h_25 => cases h
  case' h_13 => change ifReservedZero 0 _ = _ at h
  all_goals
    obtain ⟨hreserved, rfl⟩ := ifReservedZero_ok h
    simp only [encodeNat, BitVec.toNat_ofNat, Fin.ofNat, AddrReg.code_ofCode (bits_lt w 23 23),
      Buf.code_ofCode (bits_lt w 23 23), Proto.code_ofCode (bits_lt w 0 0), Proto.code_ofCode (bits_lt w 16 16),
      Channel.code_ofCode (bits_lt w 1 0)]
    unfold bits at *
    omega

/-- Settles O2: the word is the sum of R71, and the fields it was read from are in bounds. -/
theorem encodeOfDecodeIsTheWord : Obligations.EncodeOfDecodeIsTheWord :=
  fun _ _ h => ⟨encode_eq (encodeNat_of_decode h), (opcode_and_wf_of_decode h).2⟩

/-- Settles O5: each word is the sum of R71 of the command, so decoding gives the command back. -/
theorem wordsOfTheSpecDecode : Obligations.WordsOfTheSpecDecode :=
  ⟨decode_encode (i := .setaf .dst 1#2) rfl, decode_encode (i := .setah .dst 1 0x0101#16) rfl,
    decode_encode (i := .setctl 2#2) rfl, decode_encode (i := .stb .rx 13 0x12#8) rfl,
    decode_encode (i := .csum .tx 63 2) rfl, decode_encode (i := .bip4 .udp) rfl, decode_encode (i := .budp) rfl,
    decode_encode (i := .classify .icmp4) rfl, decode_encode (i := .setv .tcp 9999#16 4#3) rfl⟩

end Sys2Proof
end

section
/-! PROOFS (30_encoding.md R61, R62, R65). The decoder, the rows of the opcode map and the reserved fields of the formats, each
compared with one list: the reserved fields of the word's opcode. -/

namespace Sys2Proof

open Sys2Proof.Machine Sys2Proof.Safety

-- The format of a word's opcode, and the decoder's three outcomes by it.

theorem bits_opcode (w : Word) : bits w 31 24 = w.toNat / 2 ^ 24 := by
  have hw := w.isLt
  unfold bits
  omega

/-- The reserved fields of the word's opcode; none if the opcode is not listed (R61, R62). -/
def reservedOf (w : Word) : Option (List (Nat × Nat)) := reservedFields.lookup (bits w 31 24)

/-- All these fields of the word are 0 (R60). -/
def ZeroAt (w : Word) (fields : List (Nat × Nat)) : Prop := ∀ r ∈ fields, bits w r.1 r.2 = 0

/-- Each opcode has one entry, so that looking it up finds every entry. -/
theorem lookup_reservedFields_iff (op : Nat) (fields : List (Nat × Nat)) :
    reservedFields.lookup op = some fields ↔ (op, fields) ∈ reservedFields := by
  constructor
  · intro h
    obtain ⟨l, r, hl, -⟩ := List.lookup_eq_some_iff.1 h
    rw [hl]
    exact List.mem_append_right l List.mem_cons_self
  · have hself : ∀ f ∈ reservedFields, reservedFields.lookup f.1 = some f.2 := by decide
    exact hself (op, fields)

/-- How the decoder answers a word, by the reserved fields of the word's opcode (R65). -/
inductive Decodes (w : Word) : Except Illegal Instr → Prop
  | unlisted (h : reservedOf w = none) : Decodes w (.error .unknownOpcode)
  | reserved {fields : List (Nat × Nat)} (h : reservedOf w = some fields) (hset : ¬ZeroAt w fields) :
      Decodes w (.error .reservedBit)
  | command {fields : List (Nat × Nat)} (i : Instr) (h : reservedOf w = some fields) (hzero : ZeroAt w fields) :
      Decodes w (.ok i)

theorem Decodes.of_ifReservedZero {w : Word} {op n : Nat} {i : Instr} {fields : List (Nat × Nat)} (hop : bits w 31 24 = op)
    (hlookup : reservedFields.lookup op = some fields) (hn : n = 0 ↔ ZeroAt w fields) : Decodes w (ifReservedZero n i) := by
  have hfields : reservedOf w = some fields := by rw [reservedOf, hop, hlookup]
  unfold ifReservedZero
  split
  case isTrue h => exact .command i hfields (hn.1 h)
  case isFalse h => exact .reserved hfields (hn.not.1 h)

theorem zeroAt_single (w : Word) (hi lo : Nat) : bits w hi lo = 0 ↔ ZeroAt w [(hi, lo)] := by simp [ZeroAt]

/-- The two reserved fields of LDB, of which the decoder takes the sum. -/
theorem zeroAt_ldb (w : Word) : bits w 22 19 + bits w 7 0 = 0 ↔ ZeroAt w [(22, 19), (7, 0)] := by simp [ZeroAt]

/-- The two reserved fields of ARM and GETV, which are adjacent: the decoder takes them as one. -/
theorem zeroAt_adjacent (w : Word) : bits w 23 17 = 0 ↔ ZeroAt w [(23, 20), (19, 17)] := by
  simp only [ZeroAt, List.forall_mem_cons, List.not_mem_nil, false_imp_iff, implies_true, and_true, bits]
  omega

theorem decodes (w : Word) : Decodes w (decode w) := by
  unfold decode
  split
  case h_11 hop => exact .of_ifReservedZero hop rfl (zeroAt_ldb w)
  case h_13 hop => exact .command (fields := []) _ (by rw [reservedOf, hop]; rfl) (by simp [ZeroAt])
  case h_21 hop | h_23 hop => exact .of_ifReservedZero hop rfl (zeroAt_adjacent w)
  case h_25 =>
    refine .unlisted (List.lookup_eq_none_iff.2 ?_)
    simp only [reservedFields, List.forall_mem_cons, List.not_mem_nil, false_imp_iff, implies_true, and_true, bne_iff_ne]
    and_intros <;> assumption
  all_goals exact .of_ifReservedZero ‹_› rfl (zeroAt_single w _ _)

-- The decoder's outcomes, one equivalence for each.

theorem decode_ok_iff (w : Word) : (∃ i, decode w = .ok i) ↔ ∃ fields, reservedOf w = some fields ∧ ZeroAt w fields := by
  have h := decodes w
  generalize decode w = d at h ⊢
  cases h <;> simp [*]

theorem decode_reservedBit_iff (w : Word) :
    decode w = .error .reservedBit ↔ ∃ fields, reservedOf w = some fields ∧ ¬ZeroAt w fields := by
  have h := decodes w
  generalize decode w = d at h ⊢
  cases h <;> simp [*]

theorem decode_unknownOpcode_iff (w : Word) : decode w = .error .unknownOpcode ↔ reservedOf w = none := by
  have h := decodes w
  generalize decode w = d at h ⊢
  cases h <;> simp [*]

-- The rows of the map. The opcode and the reserved fields of a format are the fields its mask covers (R62).

/-- Two words agree in a field exactly when they agree in its bits. -/
theorem bits_eq_iff (v w : Word) (hi lo : Nat) :
    bits w hi lo = bits v hi lo ↔ ∀ k, lo ≤ k → k ≤ hi → w.getLsbD k = v.getLsbD k := by
  constructor
  · intro h k hlo hhi
    have hk := congrArg (Nat.testBit · (k - lo)) h
    simpa [bits, Nat.testBit_mod_two_pow, Nat.testBit_div_two_pow, Nat.sub_add_cancel hlo, BitVec.getLsbD,
      show k - lo < hi + 1 - lo by omega] using hk
  · intro h
    refine Nat.eq_of_testBit_eq fun j => ?_
    simp only [bits, Nat.testBit_mod_two_pow, Nat.testBit_div_two_pow]
    by_cases hj : j < hi + 1 - lo
    · exact congrArg _ (h (j + lo) (by omega) (by omega))
    · rw [decide_eq_false hj, Bool.false_and, Bool.false_and]

/-- A row whose mask covers these fields, and whose pattern has no other bit, covers the words with the pattern's fields. -/
theorem covers_iff_bits {row : OpcodeRow} {fields : List (Nat × Nat)} (hpattern : row.pattern &&& row.mask = row.pattern)
    (hmask : ∀ k < 32, (row.mask.getLsbD k = true ↔ ∃ r ∈ fields, r.2 ≤ k ∧ k ≤ r.1)) (w : Word) :
    row.covers w = true ↔ ∀ r ∈ fields, bits w r.1 r.2 = bits row.pattern r.1 r.2 := by
  simp only [bits_eq_iff]
  rw [OpcodeRow.covers, beq_iff_eq]
  constructor
  · intro h r hr k hlo hhi
    by_cases hk : k < 32
    · have hm := (hmask k hk).2 ⟨r, hr, hlo, hhi⟩
      rw [← h, BitVec.getLsbD_and, hm, Bool.and_true]
    · rw [BitVec.getLsbD_of_ge _ _ (not_lt.1 hk), BitVec.getLsbD_of_ge _ _ (not_lt.1 hk)]
  · intro h
    rw [← hpattern]
    refine BitVec.eq_of_getLsbD_eq fun k hk => ?_
    rw [BitVec.getLsbD_and, BitVec.getLsbD_and]
    cases hm : row.mask.getLsbD k with
    | false => rw [Bool.and_false, Bool.and_false]
    | true =>
      obtain ⟨r, hr, hlo, hhi⟩ := (hmask k hk).1 hm
      rw [h r hr k hlo hhi]

/-- Each row of the opcode map with the opcode and the reserved fields of its format: both lists follow R62. -/
def formats : List (OpcodeRow × Nat × List (Nat × Nat)) := opcodeMap.zip reservedFields

theorem exists_format {row : OpcodeRow} (h : row ∈ opcodeMap) : ∃ f, (row, f) ∈ formats := by
  have hrows : formats.map Prod.fst = opcodeMap := rfl
  rw [← hrows, List.mem_map] at h
  obtain ⟨⟨_, f⟩, hf, rfl⟩ := h
  exact ⟨f, hf⟩

theorem lookup_of_mem_formats : ∀ p ∈ formats, reservedFields.lookup p.2.1 = some p.2.2 := by decide

/-- A row's pattern is its opcode, and its mask the opcode and the reserved fields. -/
theorem formats_masks : ∀ p ∈ formats, p.1.pattern &&& p.1.mask = p.1.pattern ∧
    (∀ k < 32, (p.1.mask.getLsbD k = true ↔ ∃ r ∈ (31, 24) :: p.2.2, r.2 ≤ k ∧ k ≤ r.1)) ∧
    bits p.1.pattern 31 24 = p.2.1 ∧ ∀ r ∈ p.2.2, bits p.1.pattern r.1 r.2 = 0 := by decide +kernel

/-- Two rows have one mnemonic exactly when they have one opcode, so that they are one row. -/
theorem formats_distinct : ∀ p ∈ formats, ∀ q ∈ formats, (p.1.mnemonic = q.1.mnemonic ↔ p.2.1 = q.2.1) := by decide

theorem exists_format_of_instr (i : Instr) : ∃ p ∈ formats, p.1.mnemonic = i.mnemonic ∧ p.2.1 = i.opcode := by
  cases i <;> simp only [Instr.mnemonic, Instr.opcode] <;> decide

/-- A row covers the words that have its opcode and reserved fields that are 0 (R62). -/
theorem covers_iff_format {row : OpcodeRow} {op : Nat} {fields : List (Nat × Nat)} (hf : (row, op, fields) ∈ formats)
    (w : Word) : row.covers w = true ↔ bits w 31 24 = op ∧ ZeroAt w fields := by
  obtain ⟨hpattern, hmask, hop, hzero⟩ := formats_masks _ hf
  rw [covers_iff_bits hpattern hmask, List.forall_mem_cons, hop]
  exact and_congr_right fun _ => forall₂_congr fun r hr => by rw [hzero r hr]

/-- A row covers the words that decode to a command of the row's mnemonic. -/
theorem covers_iff_decode {row : OpcodeRow} (hrow : row ∈ opcodeMap) (w : Word) :
    row.covers w = true ↔ ∃ i, decode w = .ok i ∧ i.mnemonic = row.mnemonic := by
  obtain ⟨⟨op, fields⟩, hf⟩ := exists_format hrow
  have hfields (hop : bits w 31 24 = op) : reservedOf w = some fields := by
    rw [reservedOf, hop]
    exact lookup_of_mem_formats _ hf
  have hmnemonic (i : Instr) : i.mnemonic = row.mnemonic ↔ i.opcode = op := by
    obtain ⟨p, hp, hm, ho⟩ := exists_format_of_instr i
    rw [← hm, ← ho]
    exact formats_distinct p hp _ hf
  rw [covers_iff_format hf]
  constructor
  · rintro ⟨hop, hzero⟩
    obtain ⟨i, hi⟩ := (decode_ok_iff w).2 ⟨fields, hfields hop, hzero⟩
    exact ⟨i, hi, (hmnemonic i).2 ((opcode_and_wf_of_decode hi).1 ▸ hop)⟩
  · rintro ⟨i, hi, hm⟩
    have hop : bits w 31 24 = op := (opcode_and_wf_of_decode hi).1.trans ((hmnemonic i).1 hm)
    obtain ⟨fields', hfields', hzero⟩ := (decode_ok_iff w).1 ⟨i, hi⟩
    obtain rfl := Option.some.inj ((hfields hop).symm.trans hfields')
    exact ⟨hop, hzero⟩

/-- Settles O3: a row covers the words of its command, and a word has one command, whose mnemonic is that of one row. -/
theorem opcodeMapIsTheDecoder : Obligations.OpcodeMapIsTheDecoder := by
  refine ⟨rfl, fun row hrow w => covers_iff_decode hrow w, ?_⟩
  have hdistinct : opcodeMap.Pairwise fun r q => r.mnemonic ≠ q.mnemonic := by decide
  refine hdistinct.imp_of_mem fun hr hq hne w ⟨hrw, hqw⟩ => hne ?_
  obtain ⟨i, hi, hir⟩ := (covers_iff_decode hr w).1 hrw
  obtain ⟨j, hj, hjq⟩ := (covers_iff_decode hq w).1 hqw
  obtain rfl : i = j := Except.ok.inj (hi.symm.trans hj)
  exact hir.symm.trans hjq

-- The words that no row covers.

theorem opcodeUnlisted_iff_not_mem (w : Word) : opcodeUnlisted w ↔ w.toNat / 2 ^ 24 ∉ reservedFields.map Prod.fst := by
  rw [List.mem_map, not_exists]
  exact forall_congr' fun f => not_and.symm

theorem opcodeUnlisted_iff (w : Word) : opcodeUnlisted w ↔ decode w = .error .unknownOpcode := by
  rw [decode_unknownOpcode_iff, reservedOf, bits_opcode, List.lookup_eq_none_iff]
  simp only [opcodeUnlisted, bne_iff_ne, ne_comm]

theorem reservedBitSet_iff (w : Word) : reservedBitSet w ↔ decode w = .error .reservedBit := by
  simp only [decode_reservedBit_iff, reservedOf, lookup_reservedFields_iff, bits_opcode, ZeroAt, not_forall, exists_prop]
  constructor
  · rintro ⟨⟨op, fields⟩, hf, rfl, hset⟩
    exact ⟨fields, hf, hset⟩
  · rintro ⟨fields, hf, hset⟩
    exact ⟨_, hf, rfl, hset⟩

theorem no_row_covers_iff (w : Word) : (∀ row ∈ opcodeMap, row.covers w = false) ↔ ∃ e, decode w = .error e := by
  constructor
  · intro h
    cases hd : decode w with
    | error e => exact ⟨e, rfl⟩
    | ok i =>
      obtain ⟨row, hrow, hm⟩ : ∃ row ∈ opcodeMap, row.mnemonic = i.mnemonic := by
        obtain ⟨p, hp, hm, -⟩ := exists_format_of_instr i
        exact ⟨p.1, (List.of_mem_zip hp).1, hm⟩
      have hcovers := (covers_iff_decode hrow w).2 ⟨i, hd, hm.symm⟩
      rw [h row hrow] at hcovers
      cases hcovers
  · rintro ⟨e, he⟩ row hrow
    rw [Bool.eq_false_iff, Ne, covers_iff_decode hrow]
    rintro ⟨i, hi, -⟩
    cases he.symm.trans hi

/-- An illegal word is illegal for one of the two reasons of R65. -/
theorem decode_error_iff (w : Word) : (∃ e, decode w = .error e) ↔ opcodeUnlisted w ∨ reservedBitSet w := by
  rw [opcodeUnlisted_iff, reservedBitSet_iff]
  constructor
  · rintro ⟨_ | _, he⟩
    · exact .inl he
    · exact .inr he
  · rintro (he | he) <;> exact ⟨_, he⟩

/-- Settles O4: the words that no row covers are those the decoder refuses, and a step on one raises ERR_ILLEGAL. -/
theorem illegalWordRaisesErrIllegal : Obligations.IllegalWordRaisesErrIllegal := by
  refine ⟨fun s w rest hin h => ?_, no_row_covers_iff, fun w => ?_, fun w => ?_, fun w => (reservedBitSet_iff w).symm⟩
  · obtain ⟨e, he⟩ := (no_row_covers_iff w).1 h
    rw [step_command hin, runWord_error he]
    exact raise_eq_raised .illegal w _
  · exact (opcodeUnlisted_iff w).symm.trans (opcodeUnlisted_iff_not_mem w)
  · rw [no_row_covers_iff, decode_error_iff]

end Sys2Proof
end

section
/-! PROOFS (60_exceptions.md R207, R208). The error flag is sticky: only CLRERR and reset clear it, so a run that ends with ERR = 0
met no error. -/

namespace Sys2Proof.Machine

open Sys2Proof.Safety

/-- CLRERR is the only command whose row of the write matrix names ERR (R28). -/
theorem err_not_mem_writtenBy {i : Instr} (hi : i ≠ .clrerr) : Component.err ∉ writtenBy i := by
  cases i with
  | clrerr => exact absurd rfl hi
  | setaf r | setah r | stb r => cases r <;> simp [writtenBy]
  | _ => simp [writtenBy]

theorem Completes.err_eq {s u : State} {i : Instr} (h : Completes s i u) (hi : i ≠ .clrerr) : u.status.err = s.status.err :=
  h.sameOutside .err (err_not_mem_writtenBy hi)

/-- A command other than CLRERR that leaves ERR = 0 found it so, and answered without an error. -/
theorem exec_quiet {s t : State} {i : Instr} (h : exec i s = .next t) (hi : i ≠ .clrerr) (hend : t.status.err = false) :
    s.status.err = false ∧ ∃ d, t.resp = some d ∧ d.err = 0#4 := by
  rcases exec_cases h with ⟨u, d, hu, rfl⟩ | ⟨e, rfl⟩
  · exact ⟨hu.err_eq hi ▸ hend, _, rfl, rfl⟩
  · cases hend

/-- A step on a command word takes that word and leaves the rest presented. -/
theorem step_command_input {s t : State} {w : Word} {rest : List HostEvent} (hin : s.input = .command w :: rest)
    (h : step s = .next t) : t.input = rest := by
  obtain ⟨t', -, hstep, hinput, -⟩ := everyCommandIsAnsweredWithItsErrorCode s w rest hin
  obtain rfl : t = t' := Host.Outcome.next.inj (h.symm.trans hstep)
  exact hinput

/-- A step on a command word other than that of CLRERR that leaves ERR = 0: an illegal word would have set ERR. -/
theorem step_quiet {s t : State} {w : Word} {rest : List HostEvent} (hin : s.input = .command w :: rest)
    (hw : w ≠ encode .clrerr) (h : step s = .next t) (hend : t.status.err = false) :
    s.status.err = false ∧ ∃ d, t.resp = some d ∧ d.err = 0#4 := by
  rw [step_command hin] at h
  cases hdec : decode w with
  | ok i =>
    rw [runWord_ok hdec] at h
    have hi : i ≠ .clrerr := by
      rintro rfl
      exact hw (encode_eq (encodeNat_of_decode hdec)).symm
    exact exec_quiet (s := s.setInput rest) h hi hend
  | error e =>
    rw [runWord_error hdec, raise_next] at h
    rw [h] at hend
    cases hend

/-- A run of one step more is a step and a run from where it leads. -/
theorem run_succ_iff {M : Host.Core} {n : Nat} {s t : M.State} :
    M.run (n + 1) s = .next t ↔ ∃ u, M.step s = .next u ∧ M.run n u = .next t := by
  rw [Host.Core.run]
  cases M.step s <;> simp

/-- A run over command words other than that of CLRERR that ends with ERR = 0 started with ERR = 0, and every step of it answered
without an error: from the last step back, ERR was 0 before each. -/
theorem run_quiet {n : Nat} {s t : State} (hlen : n ≤ s.input.length)
    (hevents : ∀ e ∈ s.input.take n, e ≠ .reset ∧ e ≠ .command (encode .clrerr)) (hrun : Sys2Proof.core.run n s = .next t)
    (hend : t.status.err = false) :
    s.status.err = false ∧
      ∀ k, k < n → ∃ (u : State) (d : Response), Sys2Proof.core.run (k + 1) s = .next u ∧ u.resp = some d ∧ d.err = 0#4 := by
  induction n generalizing s with
  | zero =>
    obtain rfl : s = t := Host.Outcome.next.inj hrun
    exact ⟨hend, fun k hk => absurd hk k.not_lt_zero⟩
  | succ n ih =>
    obtain ⟨(u : State), (hstep : step s = .next u), htail⟩ := run_succ_iff.1 hrun
    cases hin : s.input with
    | nil => simp [hin] at hlen
    | cons e rest =>
      rw [hin, List.length_cons, Nat.add_le_add_iff_right] at hlen
      rw [hin, List.take_succ_cons, List.forall_mem_cons] at hevents
      obtain ⟨⟨hreset, hclrerr⟩, hrest⟩ := hevents
      cases e with
      | reset => exact absurd rfl hreset
      | command w =>
        have hw : w ≠ encode .clrerr := fun heq => hclrerr (congrArg _ heq)
        have huin := step_command_input hin hstep
        obtain ⟨huerr, hlater⟩ := ih (huin ▸ hlen) (huin ▸ hrest) htail
        obtain ⟨hserr, d, hresp, hd⟩ := step_quiet hin hw hstep huerr
        refine ⟨hserr, fun k hk => ?_⟩
        cases k with
        | zero => exact ⟨u, d, run_succ_iff.2 ⟨u, hstep, rfl⟩, hresp, hd⟩
        | succ k =>
          obtain ⟨v, d, hv, hvresp, hvd⟩ := hlater k (Nat.lt_of_succ_lt_succ hk)
          exact ⟨v, d, run_succ_iff.2 ⟨u, hstep, hv⟩, hvresp, hvd⟩

/-- Settles O13: ERR = 0 at the end of the run goes back through every step of it. -/
theorem noErrorAtTheEndMeansNoCommandRaised : Obligations.NoErrorAtTheEndMeansNoCommandRaised :=
  fun _ _ _ hlen hevents hrun hend => (run_quiet hlen hevents hrun hend).2

end Sys2Proof.Machine
end

section
/-! PROOFS (40_context_commands.md R80 to R91). The context, control and buffer commands: the word of each, the state it leaves
when it completes, and the error it raises where its operand is refused. -/

namespace Sys2Proof.Machine

open Sys2Proof.Safety

-- What the commands share.

/-- A command whose cause is an error raises that error with its own word, and changes nothing else (R205, R207). -/
theorem exec_of_errorCause {i : Instr} {s : State} {code : Nat} (h : errorCause s i = code) (hcode : code ≠ 0) :
    exec i s = .next (raised code (encode i) s) := by
  have hends := exec_ends i s
  rw [h] at hends
  exact hends.eq_raised hcode

/-- The tag an operand selects, in the terms of the claims. -/
theorem State.setAfTag_eq (s : State) (r : AddrReg) (f : AF) :
    s.setAfTag r f = { s with srcAf := if r = .src then f else s.srcAf, dstAf := if r = .dst then f else s.dstAf } := by
  cases r <;> rfl

@[simp] theorem State.addr_answer (s : State) (d : Response) (r : AddrReg) : (s.answer d).addr r = s.addr r := by
  cases r <;> rfl

theorem State.addr_setAddr_of_ne (s : State) {q r : AddrReg} (a : Addr) (h : q ≠ r) : (s.setAddr r a).addr q = s.addr q := by
  cases q <;> cases r
  case src.src | dst.dst => exact absurd rfl h
  all_goals rfl

/-- Replacing an address register leaves everything but the two address registers. -/
theorem State.setAddr_frame (s : State) (r : AddrReg) (a : Addr) :
    s.setAddr r a = { s with srcAddr := (s.setAddr r a).srcAddr, dstAddr := (s.setAddr r a).dstAddr } := by
  cases r <;> rfl

/-- Replacing a buffer leaves everything but the two buffers. -/
theorem State.setBuf_frame (s : State) (b : Buf) (m : Memory) :
    s.setBuf b m = { s with txbuf := (s.setBuf b m).txbuf, rxbuf := (s.setBuf b m).rxbuf } := by
  cases b <;> rfl

-- The context commands (R80 to R84).

/-- SETAF with a code that names a family writes the tag and answers 0 (R81). -/
theorem execSetaf_family {af : BitVec 2} {f : AF} (h : AF.ofOperand af = some f) (r : AddrReg) (s : State) :
    execSetaf r af s = respond 0#32 (s.setAfTag r f) := by rw [execSetaf, h]

/-- Settles O18: SETAH writes one halfword of the selected address, whose bytes are its halves. -/
theorem setahWritesTwoBytes : Obligations.SetahWritesTwoBytes := by
  intro r idx v s
  refine ⟨decode_encode (i := .setah r idx v) rfl, (s.setAddr r ((s.addr r).setHalf idx v)).answer ⟨0#4, 0#32⟩, rfl,
    ?_, ?_, ?_⟩
  · intro j hj
    rw [State.addr_answer, State.addr_setAddr, addrByte_setHalf _ _ _ hj]
  · intro q hq
    rw [State.addr_answer, State.addr_setAddr_of_ne s _ hq]
  · exact congrArg (State.answer ⟨0#4, 0#32⟩) (State.setAddr_frame s r _)

/-- Settles O16: each word is the sum of R71, and each command is one update and the answer 0. -/
theorem nopSetspSetdpSetctl : Obligations.NopSetspSetdpSetctl :=
  ⟨fun _ => ⟨decode_encode (i := .nop) rfl, rfl⟩, fun v _ => ⟨decode_encode (i := .setsp v) rfl, rfl⟩,
    fun v _ => ⟨decode_encode (i := .setdp v) rfl, rfl⟩, fun k _ => ⟨decode_encode (i := .setctl k) rfl, rfl⟩⟩

/-- Settles O17: code 3 names no family, and every other code names one. -/
theorem setafWritesTheTagOrRaises : Obligations.SetafWritesTheTagOrRaises := by
  intro r af s
  refine ⟨decode_encode (i := .setaf r af) rfl, ?_, ?_⟩
  · rintro rfl
    exact exec_of_errorCause (i := .setaf r 3#2) (code := 2) rfl (by decide)
  · intro f hf
    refine (execSetaf_family (AF.ofOperand_eq hf) r s).trans ?_
    rw [State.setAfTag_eq]
    rfl

-- The control commands (R87, R88).

/-- Settles O20: CLRERR clears the error record, ACK the event flag, and irq needs the event flag. -/
theorem clrerrAndAckClearTheirFlags : Obligations.ClrerrAndAckClearTheirFlags :=
  ⟨fun _ => ⟨decode_encode (i := .clrerr) rfl, rfl⟩, fun _ => ⟨decode_encode (i := .ack) rfl, _, rfl, rfl, rfl⟩⟩

-- The buffer commands (R89 to R91).

/-- SETRXLEN of a length RXBUF can hold writes RX_LEN and answers 0 (R91). -/
theorem execSetrxlen_inside {len : Nat} (s : State) (h : len ≤ 2048) :
    execSetrxlen len s = respond 0#32 { s with rxLen := .ofNat 12 len } := if_neg (not_lt.2 h)

/-- Settles O21: STB writes the byte inside the buffer, and its cause outside is ERR_RANGE. -/
theorem stbStoresOneByte : Obligations.StbStoresOneByte := by
  intro b off data s hoff
  refine ⟨decode_stb data hoff, fun hin => ⟨_, execStb_inside data s hin, fun b' a => ?_, ?_⟩, fun hout => ?_⟩
  · rw [State.readByte_answer, State.readByte_setBuf_write]
  · exact congrArg (State.answer ⟨0#4, 0#32⟩) (State.setBuf_frame s b _)
  · exact exec_of_errorCause (i := .stb b off data) (if_pos hout) (by decide)

/-- Settles O22: LDB answers the byte inside the buffer, and its cause outside is ERR_RANGE. -/
theorem ldbAnswersTheByte : Obligations.LdbAnswersTheByte := by
  intro b off s hoff
  refine ⟨decode_ldb hoff, fun hin => ?_, fun hout => ?_⟩
  · refine (execLdb_inside s hin).trans ?_
    rw [okResp, BitVec.ofNat_toNat]
    rfl
  · exact exec_of_errorCause (i := .ldb b off) (if_pos hout) (by decide)

/-- Settles O23: a length up to 2048 fits the 12 bits of RX_LEN, and a greater one has the cause ERR_RANGE. -/
theorem setrxlenDeclaresTheLength : Obligations.SetrxlenDeclaresTheLength := by
  intro len s hlen
  refine ⟨decode_encode (i := .setrxlen len) (decide_eq_true hlen), fun hin => ?_, fun hout => ?_⟩
  · exact ⟨_, execSetrxlen_inside s hin, (BitVec.toNat_ofNat len 12).trans (Nat.mod_eq_of_lt hlen), rfl⟩
  · exact exec_of_errorCause (i := .setrxlen len) (if_pos hout) (by decide)

end Sys2Proof.Machine
end

section
/-! PROOFS (41_checksum.md R101 to R108). The checksum unit: the fold as a residue modulo 65535, the words of a sequence and their
sum, the checksum of a changed sequence, and CSUM. -/

namespace Sys2Proof.Machine

open Sys2Proof.Safety

-- The fold (R101).

/-- A number of 16 bits is its own fold. -/
theorem fold_of_lt {s : Nat} (h : s < 65536) : fold s = s := by
  rw [fold_eq]
  split <;> omega

theorem fold_eq_zero_iff (s : Nat) : fold s = 0 ↔ s = 0 := by
  rw [fold_eq]
  split <;> omega

/-- The fold keeps the residue modulo 65535: it drops multiples of 65536 and adds as many of 1. -/
theorem fold_mod (s : Nat) : fold s % 65535 = s % 65535 := by
  rw [fold_eq]
  split <;> omega

/-- What a fold remembers of a number: whether it is 0, and its residue modulo 65535. -/
theorem fold_eq_fold_iff (s t : Nat) : fold s = fold t ↔ (s = 0 ↔ t = 0) ∧ s % 65535 = t % 65535 := by
  have hs := fold_le s
  have ht := fold_le t
  have hs0 := fold_eq_zero_iff s
  have ht0 := fold_eq_zero_iff t
  have hsmod := fold_mod s
  have htmod := fold_mod t
  omega

/-- The greatest fold is that of the positive multiples of 65535. -/
theorem fold_eq_max_iff (s : Nat) : fold s = 65535 ↔ 0 < s ∧ s % 65535 = 0 := by
  have h := fold_eq_fold_iff s 65535
  rw [fold_of_lt (by decide : 65535 < 65536)] at h
  omega

/-- One step of the fold does not change where it ends. -/
theorem fold_step (s : Nat) : fold (s % 65536 + s / 65536) = fold s := by
  rw [fold_eq_fold_iff]
  omega

/-- A sum can be folded on the way. -/
theorem fold_fold_add (a b : Nat) : fold (fold a + b) = fold (a + b) := by
  have ha0 := fold_eq_zero_iff a
  have hamod := fold_mod a
  rw [fold_eq_fold_iff]
  omega

/-- Settles O24: a step of the fold keeps the residue and takes 65535 for each 65536 it drops. -/
theorem foldAddsTheHighBits : Obligations.FoldAddsTheHighBits := by
  intro s
  refine ⟨?_, fold_le s, fun _ => by omega, fun _ _ _ => by omega⟩
  split
  · exact fold_of_lt (by omega)
  · exact (fold_step s).symm

-- The words of a sequence (R102) and their sum (R103).

theorem length_words : ∀ s : List Byte, (words s).length = (s.length + 1) / 2
  | [] | [_] => by simp [words]
  | hi :: lo :: s => by
    have ih := length_words s
    simp only [words, List.length_cons]
    omega

/-- Word `k` is the pair of bytes at `2 * k`, a byte behind the end counting as 0x00. -/
theorem getD_words : ∀ (s : List Byte) (k : Nat),
    (words s).getD k 0 = (s.getD (2 * k) 0#8).toNat * 256 + (s.getD (2 * k + 1) 0#8).toNat
  | [], _ | [_], 0 | [_], _ + 1 | _ :: _ :: _, 0 => by simp [words]
  | _ :: _ :: s, k + 1 => by
    simp only [words, Nat.mul_add_one 2 k, List.getD_cons_succ, getD_words s k]

/-- Adding in a register of `n` bits gives the exact sum modulo `2 ^ n`. -/
theorem foldl_add_ofNat (n : Nat) (ws : List Nat) (a : Nat) :
    ws.foldl (fun (r : BitVec n) w => r + .ofNat n w) (.ofNat n a) = .ofNat n (a + ws.sum) := by
  induction ws generalizing a with
  | nil => rfl
  | cons w ws ih => rw [List.foldl_cons, ← BitVec.ofNat_add, ih, List.sum_cons, Nat.add_assoc]

/-- The sum of a sequence that `csum` takes fits 32 bits. -/
theorem acc_lt_of_le_csumMax {s : List Byte} (h : s.length ≤ Config.csumMax) : acc s < 2 ^ 32 := by
  have hacc := acc_le s
  unfold Config.csumMax at h
  omega

/-- Settles O28: the words are at most 65535 each, and there are half as many as bytes. -/
theorem accumulatorNeverOverflows : Obligations.AccumulatorNeverOverflows := by
  intro s
  refine ⟨rfl, fun h => ?_, fun h => ?_, csum_eq_none_iff⟩
  · have := acc_le s
    omega
  · rw [foldl_add_ofNat 32 (words s) 0, Nat.zero_add, BitVec.toNat_ofNat]
    exact Nat.mod_eq_of_lt (acc_lt_of_le_csumMax h)

/-- Settles O27: a byte behind the end counts as 0x00, so the last word of an odd sequence is one of the pairs. -/
theorem wordsAndChecksumOfASequence : Obligations.WordsAndChecksumOfASequence := by
  intro s
  refine ⟨length_words s, fun k _ => getD_words s k, fun k hk => ?_, fun h => ?_⟩
  · rw [getD_words, List.getD_eq_default s 0#8 hk.le, BitVec.toNat_zero, Nat.add_zero]
  · have hc := csumWithin_toNat h
    refine ⟨_, csum_eq_csumWithin h, hc, BitVec.eq_of_toNat_eq ?_⟩
    have hfold := fold_le (acc s)
    rw [hc, BitVec.toNat_not, BitVec.toNat_ofNat]
    omega

-- The laws of the checksum (R107).

/-- A sequence has the sum 0 exactly when each word is 0. -/
theorem acc_eq_zero_iff (s : List Byte) : acc s = 0 ↔ ∀ w ∈ words s, w = 0 := List.sum_eq_zero_iff

/-- The checksum is 0xFFFF exactly for the sum 0. -/
theorem csum_eq_allOnes_iff {s : List Byte} (h : s.length ≤ Config.csumMax) : csum s = some 0xFFFF#16 ↔ acc s = 0 := by
  have hfold := fold_le (acc s)
  rw [csum_eq_some_iff, and_iff_right h, ← fold_eq_zero_iff, BitVec.toNat_ofNat]
  omega

/-- The checksum is 0x0000 exactly for the positive multiples of 65535. -/
theorem csum_eq_zero_iff {s : List Byte} (h : s.length ≤ Config.csumMax) :
    csum s = some 0x0000#16 ↔ 0 < acc s ∧ acc s % 65535 = 0 := by
  have hfold := fold_le (acc s)
  rw [csum_eq_some_iff, and_iff_right h, ← fold_eq_max_iff, BitVec.toNat_ofNat]
  omega

/-- Sequences with one sum have one checksum. -/
theorem csum_congr {s t : List Byte} (hs : s.length ≤ Config.csumMax) (ht : t.length ≤ Config.csumMax) (h : acc s = acc t) :
    csum s = csum t := (csum_eq_csum_iff hs ht).2 (congrArg fold h)

/-- A byte 0x00 at the end adds nothing: it completes the last word, or is the high byte of a word 0. -/
theorem acc_append_zero : ∀ s : List Byte, acc (s ++ [0x00#8]) = acc s
  | [] | [_] => by simp [acc, words]
  | _ :: _ :: s => by simp only [List.cons_append, acc_cons_cons, acc_append_zero s]

/-- The sum of a sequence around the pair of bytes at an even offset. -/
theorem acc_append_pair {pre : List Byte} (hpre : pre.length % 2 = 0) (hi lo : Byte) (post : List Byte) :
    acc (pre ++ [hi, lo] ++ post) = acc pre + (hi.toNat * 256 + lo.toNat) + acc post := by
  rw [List.append_assoc, acc_append pre _ hpre, List.cons_append, List.cons_append, acc_cons_cons, List.nil_append,
    ← Nat.add_assoc]

/-- Swapping two unequal bytes of a word moves the sum by at most 255 * 255, which is less than 65535, so its residue differs. -/
theorem fold_swap_ne {a b hi lo : Nat} (hhi : hi < 256) (hlo : lo < 256) (hne : hi ≠ lo) :
    fold (a + (hi * 256 + lo) + b) ≠ fold (a + (lo * 256 + hi) + b) := by
  rw [Ne, fold_eq_fold_iff]
  omega

theorem csum_swap_ne {pre post : List Byte} {hi lo : Byte} (hpre : pre.length % 2 = 0)
    (hlen : pre.length + 2 + post.length ≤ Config.csumMax) (hne : hi ≠ lo) :
    csum (pre ++ [hi, lo] ++ post) ≠ csum (pre ++ [lo, hi] ++ post) := by
  have hdomain (x y : Byte) : (pre ++ [x, y] ++ post).length ≤ Config.csumMax := by
    rwa [List.length_append, List.length_append]
  rw [Ne, csum_eq_csum_iff (hdomain hi lo) (hdomain lo hi), acc_append_pair hpre, acc_append_pair hpre]
  exact fold_swap_ne hi.isLt lo.isLt (mt BitVec.eq_of_toNat_eq hne)

/-- Settles O25: what a fold remembers decides the first three laws, and the sum the others. -/
theorem checksumLaws : Obligations.ChecksumLaws := by
  refine ⟨fold_eq_zero_iff, fun s hs => ?range, fun a b => (fold_fold_add a b).symm,
    fun s hs => ⟨(csum_eq_allOnes_iff hs).trans (acc_eq_zero_iff s), csum_eq_zero_iff hs⟩, fun s hs => ?byte,
    fun s hs heven => ?word, fun s t hs ht hperm => csum_congr hs ht hperm.sum_eq,
    fun _ _ _ _ hpre hlen hne => csum_swap_ne hpre hlen hne⟩
  case range => exact ⟨Nat.pos_of_ne_zero (mt (fold_eq_zero_iff s).1 hs.ne'), fold_le s, fold_mod s⟩
  case byte => exact csum_congr (by rwa [List.length_append]) (Nat.le_of_succ_le hs) (acc_append_zero s)
  case word =>
    refine csum_congr (by rwa [List.length_append]) (Nat.le_of_add_right_le hs) ?_
    rw [acc_append s _ heven, acc_cons_cons]
    rfl

-- The verification law (R108).

/-- Storing a checksum replaces one stored at the same offset. -/
theorem storeChecksum_storeChecksum (o : Nat) (c d : Half) (h : List Byte) :
    storeChecksum o c (storeChecksum o d h) = storeChecksum o c h := by
  simp only [storeChecksum]
  rw [List.set_comm (loByte d) (hiByte c) (Nat.succ_ne_self o), List.set_set, List.set_set]

/-- A checksum in a cleared field at an even offset adds itself to the sum. -/
theorem acc_storeChecksum (c : Half) : ∀ {o : Nat} {h : List Byte}, o % 2 = 0 → o + 1 < h.length →
    acc (storeChecksum o c h) = acc (storeChecksum o 0#16 h) + c.toNat
  | 0, hi :: lo :: h, _, _ => by
    simp only [storeChecksum, List.set_cons_zero, List.set_cons_succ, acc_cons_cons, hiByte_toNat, loByte_toNat,
      BitVec.toNat_ofNat]
    omega
  | o + 2, hi :: lo :: h, ho, hlen => by
    have ih := acc_storeChecksum c (o := o) (h := h) (by omega) (Nat.lt_of_succ_lt_succ (Nat.lt_of_succ_lt_succ hlen))
    simp only [storeChecksum, List.set_cons_succ, acc_cons_cons] at ih ⊢
    omega
  | 0, [_], _, hlen | _ + 2, [_], _, hlen | 0, [], _, hlen | _ + 2, [], _, hlen => by simp at hlen
  | 1, _, ho, _ => by simp at ho

/-- The complement of its fold makes a sum a positive multiple of 65535. -/
theorem fold_add_complement (a : Nat) : fold (a + (65535 - fold a)) = 65535 := by
  have hle := fold_le a
  have hzero := fold_eq_zero_iff a
  have hmod := fold_mod a
  rw [fold_eq_max_iff]
  omega

/-- A sequence whose checksum is stored in a cleared field at an even offset, behind a pseudo-header of even length, sums to 0x0000. -/
theorem csum_storeChecksum {ph h : List Byte} {o : Nat} {c : Half} (hph : ph.length % 2 = 0) (ho : o % 2 = 0)
    (hlen : o + 1 < h.length) (hc : csum (ph ++ storeChecksum o 0#16 h) = some c) :
    csum (ph ++ storeChecksum o c h) = some 0x0000#16 := by
  obtain ⟨hdomain, hcomplement⟩ := csum_eq_some_iff.1 hc
  rw [List.length_append, length_storeChecksum] at hdomain
  rw [csum_eq_zero_iff (by rwa [List.length_append, length_storeChecksum]), ← fold_eq_max_iff, acc_append _ _ hph,
    acc_storeChecksum c ho hlen, ← Nat.add_assoc, ← acc_append _ _ hph, hcomplement]
  exact fold_add_complement _

/-- Settles O26: the field adds the complement of the fold of the rest. -/
theorem storedChecksumVerifies : Obligations.StoredChecksumVerifies := by
  intro ph B o hph _ ho hlen hle B0 hB0
  obtain rfl : B0 = storeChecksum o 0#16 B := hB0
  have hdomain : (ph ++ storeChecksum o 0#16 B).length ≤ Config.csumMax := by
    rwa [List.length_append, length_storeChecksum]
  obtain ⟨c, hc⟩ := Option.isSome_iff_exists.1 (csum_isSome hdomain)
  refine ⟨c, hc, ?_⟩
  rw [← hiByte_eq, ← loByte_eq, ← storeChecksum, storeChecksum_storeChecksum]
  exact csum_storeChecksum hph ho hlen hc

-- CSUM (R106).

/-- A 16-bit answer, in the terms of the claims. -/
theorem State.answer_half (s : State) (c : Half) :
    s.answer ⟨0#4, c.setWidth 32⟩ = { s with resp := okResp c.toNat } := by
  rw [okResp, BitVec.ofNat_toNat]
  rfl

/-- Settles O29: a region inside the buffer is one `csum` takes and its sum fits CS_ACC; outside, the cause is ERR_RANGE. -/
theorem csumSumsTheRegion : Obligations.CsumSumsTheRegion := by
  intro b off len s hoff hlen
  refine ⟨decode_encode (i := .csum b off len) ?wf, fun hin => ?inside, fun hout => ?outside⟩
  case wf => exact Bool.and_eq_true_iff.2 ⟨decide_eq_true hoff, decide_eq_true hlen⟩
  case inside =>
    rw [← cap_eq_capacity] at hin
    obtain ⟨c, hc, hexec⟩ := execCsum_inside s (not_lt.2 hin)
    obtain ⟨hdomain, hcomplement⟩ := csum_eq_some_iff.1 hc
    have hacc := Nat.mod_eq_of_lt (acc_lt_of_le_csumMax hdomain)
    exact ⟨_, (s.buf b).readBytes off len, hexec, rfl, (BitVec.toNat_ofNat _ 32).trans hacc, hcomplement,
      State.answer_half _ c⟩
  case outside => exact exec_of_errorCause (i := .csum b off len) (if_pos hout) (by decide)

end Sys2Proof.Machine
end

section
/-! PROOFS (10_state.md R18, 42_ip_codec.md R115, R122). The build commands: what one that completes leaves, and the six context
registers that decide whether it completes and with which bytes. -/

namespace Sys2Proof.Machine

open Sys2Proof.Safety

-- The state a build leaves.

/-- Two tags choose the family that both of them are (R130). -/
theorem family_eq_some_iff (s : State) (v : IpVer) : family s.srcAf s.dstAf = some v ↔ familyIs s v := by
  constructor
  · intro h
    unfold family at h
    split at h
    case h_1 hsrc hdst | h_2 hsrc hdst =>
      cases h
      exact ⟨hsrc, hdst⟩
    case h_3 => cases h
  · intro h
    cases v <;> rw [h.1, h.2] <;> rfl

/-- A build whose tags allow it emits its bytes. -/
theorem Builds.exec_eq_emit {s : State} {i : Instr} {bytes : List Byte} (h : Builds s i bytes) : exec i s = emit bytes s := by
  cases h with
  | bip4 p haf | bip6 p haf => exact if_neg (not_or.2 ⟨not_not.2 haf.1, not_not.2 haf.2⟩)
  | btcp v hv => rw [exec, execBtcp, hv]
  | budp v hv => rw [exec, execBudp, hv]
  | build v p hv =>
    have haf := (family_eq_some_iff s v).1 hv
    cases v <;> rw [exec, execBuild, haf.2] <;> exact if_neg (not_not.2 haf.1)

/-- A build of `n` bytes puts them at the start of TXBUF, writes TX_LEN, answers `n`, and leaves everything else (R18). -/
theorem Builds.exec_next {s : State} {i : Instr} {bytes : List Byte} {n : Nat} (h : Builds s i bytes) (hlen : bytes.length = n) :
    ∃ t, exec i s = .next t ∧
      (∀ a, t.readByte .tx a = if a < n then bytes.getD a 0#8 else s.readByte .tx a) ∧
      t = { s with txbuf := t.txbuf, txLen := .ofNat 7 n, resp := okResp n } := by
  subst hlen
  refine ⟨_, h.exec_eq_emit, fun a => ?_, rfl⟩
  rw [State.readByte_answer, State.readByte_setTx]

-- The context a build depends on.

/-- Two states with the same six context registers (R11, R13). -/
structure SameContext (s s' : State) : Prop where
  srcAddr : s'.srcAddr = s.srcAddr
  dstAddr : s'.dstAddr = s.dstAddr
  srcAf : s'.srcAf = s.srcAf
  dstAf : s'.dstAf = s.dstAf
  srcPort : s'.srcPort = s.srcPort
  dstPort : s'.dstPort = s.dstPort

theorem SameContext.errorCause_eq {s s' : State} (h : SameContext s s') (i : Instr) : errorCause s' i = errorCause s i := by
  cases i <;> simp only [errorCause, h.srcAf, h.dstAf]

theorem SameContext.transportHeader_eq {s s' : State} (h : SameContext s s') (v : IpVer) (p : Proto) :
    transportHeader v p s' = transportHeader v p s := by
  simp only [transportHeader, h.srcAddr, h.dstAddr, h.srcPort, h.dstPort]

theorem SameContext.packet_eq {s s' : State} (h : SameContext s s') (v : IpVer) (p : Proto) : packet v p s' = packet v p s := by
  rw [packet, packet, h.transportHeader_eq, h.srcAddr, h.dstAddr]

/-- What a build makes in one state it makes in every state with the same context. -/
theorem SameContext.builds {s s' : State} (h : SameContext s s') {i : Instr} {bytes : List Byte} (hb : Builds s i bytes) :
    Builds s' i bytes := by
  have hfamily : family s'.srcAf s'.dstAf = family s.srcAf s.dstAf := by rw [h.srcAf, h.dstAf]
  cases hb with
  | bip4 p haf =>
    rw [← h.srcAddr, ← h.dstAddr]
    exact .bip4 p ⟨h.srcAf.trans haf.1, h.dstAf.trans haf.2⟩
  | bip6 p haf =>
    rw [← h.srcAddr, ← h.dstAddr]
    exact .bip6 p ⟨h.srcAf.trans haf.1, h.dstAf.trans haf.2⟩
  | btcp v hv => exact h.transportHeader_eq v .tcp ▸ .btcp v (hfamily.trans hv)
  | budp v hv => exact h.transportHeader_eq v .udp ▸ .budp v (hfamily.trans hv)
  | build v p hv => exact h.packet_eq v p ▸ .build v p (hfamily.trans hv)

/-- Tags that are one loaded family choose it (R130). -/
theorem exists_family {s : State} (h : (s.srcAf = .v4 ∧ s.dstAf = .v4) ∨ (s.srcAf = .v6 ∧ s.dstAf = .v6)) :
    ∃ v, family s.srcAf s.dstAf = some v :=
  Option.ne_none_iff_exists'.1 fun hnone => (family_eq_none_iff _ _).1 hnone h

/-- The tags BUILD asks for, the destination's looked at first, are one loaded family (R146). -/
theorem loaded_and_equal_iff (src dst : AF) :
    (dst ≠ .none ∧ src = dst) ↔ (src = .v4 ∧ dst = .v4) ∨ (src = .v6 ∧ dst = .v6) := by
  cases src <;> cases dst <;> decide

/-- A build command that R205 gives no error has bytes to build. -/
theorem exists_builds {p : Proto} {i : Instr} {s : State}
    (hi : i = .bip4 p ∨ i = .bip6 p ∨ i = .btcp ∨ i = .budp ∨ i = .build p) (h : errorCause s i = 0) :
    ∃ bytes, Builds s i bytes := by
  rcases hi with rfl | rfl | rfl | rfl | rfl <;>
    simp only [errorCause, ite_eq_left_iff, OfNat.ofNat_ne_zero, imp_false, not_not] at h
  · exact ⟨_, .bip4 p h⟩
  · exact ⟨_, .bip6 p h⟩
  · obtain ⟨v, hv⟩ := exists_family h
    exact ⟨_, .btcp v hv⟩
  · obtain ⟨v, hv⟩ := exists_family h
    exact ⟨_, .budp v hv⟩
  · obtain ⟨v, hv⟩ := exists_family ((loaded_and_equal_iff _ _).1 h)
    exact ⟨_, .build v p hv⟩

/-- Settles O38: with one context both states emit the same bytes, or both raise the same error. -/
theorem buildsDependOnTheContextAlone : Obligations.BuildsDependOnTheContextAlone := by
  intro p i s s' hi hsrc hdst hsrcAf hdstAf hsp hdp
  have hctx : SameContext s s' := ⟨hsrc, hdst, hsrcAf, hdstAf, hsp, hdp⟩
  by_cases hcause : errorCause s i = 0
  · obtain ⟨bytes, hb⟩ := exists_builds hi hcause
    refine ⟨_, _, hb.exec_eq_emit, (hctx.builds hb).exec_eq_emit, rfl, fun _ => ⟨rfl, fun a ha => ?_⟩⟩
    rw [State.answer_txLen, hb.txLen_toNat] at ha
    rw [State.readByte_answer, State.readByte_answer, State.readByte_setTx, State.readByte_setTx, if_pos ha, if_pos ha]
  · exact ⟨_, _, exec_of_errorCause rfl hcause, exec_of_errorCause (hctx.errorCause_eq i) hcause, rfl,
      fun h => absurd h hcause⟩

end Sys2Proof.Machine
end

section
/-! PROOFS (42_ip_codec.md R117 to R121). The IP header codec: the bytes of the two headers, and the commands that build one. -/

namespace Sys2Proof.Machine

open Sys2Proof.Safety

/-- The IPv4 header is the header with the field zero, with its own checksum stored in the field (R117). -/
theorem ipv4Header_eq (ident : Half) (src dst : Vector Byte 4) (p : Proto) :
    ∃ c, csum (ipv4Zeroed ident src dst p) = some c ∧
      ipv4Header ident src dst p = storeChecksum 10 c (ipv4Zeroed ident src dst p) :=
  ⟨_, csum_eq_csumWithin _, rfl⟩

/-- Storing zero in the checksum field leaves the header in which that field is zero. -/
theorem storeChecksum_zero_ipv4Zeroed (ident : Half) (src dst : Vector Byte 4) (p : Proto) :
    storeChecksum 10 0#16 (ipv4Zeroed ident src dst p) = ipv4Zeroed ident src dst p := rfl

/-- The layout of R117, for every value in the checksum field. -/
theorem storeChecksum_ipv4Zeroed (ident : Half) (src dst : Vector Byte 4) (p : Proto) (c : Half) :
    storeChecksum 10 c (ipv4Zeroed ident src dst p) =
      [0x45#8, 0x00#8, 0x00#8, if p = .tcp then 0x28#8 else 0x1C#8, .ofNat 8 (ident.toNat / 256),
        .ofNat 8 (ident.toNat % 256), 0x00#8, 0x00#8, 0x40#8, if p = .tcp then 0x06#8 else 0x11#8,
        .ofNat 8 (c.toNat / 256), .ofNat 8 (c.toNat % 256)] ++ src.toList ++ dst.toList := by
  rw [← hiByte_eq, ← loByte_eq, ← hiByte_eq, ← loByte_eq]
  cases p <;> rfl

/-- An IPv4 header sums to 0x0000 (R108, R117). -/
theorem csum_ipv4Header (ident : Half) (src dst : Vector Byte 4) (p : Proto) :
    csum (ipv4Header ident src dst p) = some 0x0000#16 := by
  obtain ⟨c, hc, hheader⟩ := ipv4Header_eq ident src dst p
  rw [← storeChecksum_zero_ipv4Zeroed] at hc
  rw [hheader]
  exact csum_storeChecksum (ph := []) (o := 10) (h := ipv4Zeroed ident src dst p) rfl rfl (by simp) hc

/-- The layout of R119. -/
theorem ipv6Header_eq (src dst : Vector Byte 16) (p : Proto) :
    ipv6Header src dst p = [0x60#8, 0x00#8, 0x00#8, 0x00#8, 0x00#8, if p = .tcp then 0x14#8 else 0x08#8,
      if p = .tcp then 0x06#8 else 0x11#8, 0x40#8] ++ src.toList ++ dst.toList := by cases p <;> rfl

theorem length_ipv4Header (ident : Half) (src dst : Vector Byte 4) (p : Proto) : (ipv4Header ident src dst p).length = 20 := by
  simp [ipv4Header]

/-- Settles O30: with the value `c` in the checksum field the header is the list `h c` of the layout, and R117 stores the
checksum of `h 0`. -/
theorem ipHeaderBytes : Obligations.IpHeaderBytes := by
  refine ⟨fun ident src dst p h hh => ?_, fun src dst p => ⟨ipv6Header_eq src dst p, length_ipHeader .v6 src dst p⟩⟩
  have hlayout (c : Half) : storeChecksum 10 c (ipv4Zeroed ident src dst p) = h c :=
    (storeChecksum_ipv4Zeroed ident src dst p c).trans (hh c).symm
  obtain ⟨c, hc, hheader⟩ := ipv4Header_eq ident src dst p
  rw [← storeChecksum_zero_ipv4Zeroed, hlayout] at hc
  exact ⟨c, hc, hheader.trans (hlayout c), length_ipv4Header ident src dst p, csum_ipv4Header ident src dst p⟩

/-- Settles O33: tags that are both V4 build the 20 bytes, and any others have the cause ERR_AF. -/
theorem bip4BuildsTheHeader : Obligations.Bip4BuildsTheHeader := by
  intro p s
  refine ⟨decode_encode (i := .bip4 p) rfl, fun haf => ?builds, fun haf => ?raises⟩
  case builds => exact (Builds.bip4 p haf).exec_next (length_ipHeader .v4 _ _ p)
  case raises => exact exec_of_errorCause (i := .bip4 p) (if_neg haf) (by decide)

/-- Settles O34: tags that are both V6 build the 40 bytes, and any others have the cause ERR_AF. -/
theorem bip6BuildsTheHeader : Obligations.Bip6BuildsTheHeader := by
  intro p s
  refine ⟨decode_encode (i := .bip6 p) rfl, fun haf => ?builds, fun haf => ?raises⟩
  case builds => exact (Builds.bip6 p haf).exec_next (length_ipHeader .v6 _ _ p)
  case raises => exact exec_of_errorCause (i := .bip6 p) (if_neg haf) (by decide)

end Sys2Proof.Machine
end

section
/-! PROOFS (43_transport_codec.md R130 to R140). The transport header codec: the bytes of the two pseudo-headers and of the TCP and
UDP headers behind one, and the commands that build a header. -/

namespace Sys2Proof.Machine

open Sys2Proof.Safety

-- The pseudo-headers (R131, R132).

/-- The layout of R131. -/
theorem bytes_pseudo4 (src dst : Vector Byte 4) (p : Proto) :
    (pseudo4 src dst p).bytes = src.toList ++ dst.toList ++
      [0x00#8, if p = .tcp then 0x06#8 else 0x11#8, 0x00#8, if p = .tcp then 0x14#8 else 0x08#8] := by
  cases p <;> exact List.append_assoc (src.toList ++ dst.toList) _ _

/-- The layout of R132. -/
theorem bytes_pseudo6 (src dst : Vector Byte 16) (p : Proto) :
    (pseudo6 src dst p).bytes = src.toList ++ dst.toList ++
      [0x00#8, 0x00#8, 0x00#8, if p = .tcp then 0x14#8 else 0x08#8, 0x00#8, 0x00#8, 0x00#8,
        if p = .tcp then 0x06#8 else 0x11#8] := by
  cases p <;> exact List.append_assoc (src.toList ++ dst.toList) _ _

/-- Settles O31: the two layouts, and 4 + 4 + 4 and 16 + 16 + 8 bytes. -/
theorem pseudoHeaderBytes : Obligations.PseudoHeaderBytes := by
  refine ⟨fun src dst p => ⟨?_, bytes_pseudo4 src dst p⟩, fun src dst p => ⟨?_, bytes_pseudo6 src dst p⟩⟩
  · simp [bytes_pseudo4]
  · simp [bytes_pseudo6]

/-- Both pseudo-headers have even length, so the header behind one starts on a word boundary (R133). -/
theorem PseudoHeader.length_even (ph : PseudoHeader) : ph.bytes.length % 2 = 0 := by
  rcases ph.size with h | h <;> rw [h]

-- The headers (R134, R136, R137).

/-- The TCP header is the header with the field zero, with the checksum of the pseudo-header and that header stored in the field
(R134). -/
theorem tcpHeader_eq (ph : PseudoHeader) (sp dp : Half) :
    ∃ c, csum (ph.bytes ++ storeChecksum 16 0#16 (tcpZeroed sp dp)) = some c ∧
      tcpHeader ph sp dp = storeChecksum 16 c (tcpZeroed sp dp) :=
  ⟨_, csum_eq_csumWithin (ph.append_le_csumMax (by simp)), rfl⟩

/-- The UDP header is the header with the field zero, with the checksum of the pseudo-header and that header stored in the field
(R137). -/
theorem udpHeader_eq (ph : PseudoHeader) (sp dp : Half) :
    ∃ c, csum (ph.bytes ++ storeChecksum 6 0#16 (udpZeroed sp dp)) = some c ∧
      udpHeader ph sp dp = storeChecksum 6 c (udpZeroed sp dp) :=
  ⟨_, csum_eq_csumWithin (ph.append_le_csumMax (by simp)), rfl⟩

/-- The layout of R134, for every value in the checksum field. -/
theorem storeChecksum_tcpZeroed (sp dp c : Half) :
    storeChecksum 16 c (tcpZeroed sp dp) = [.ofNat 8 (sp.toNat / 256), .ofNat 8 (sp.toNat % 256), .ofNat 8 (dp.toNat / 256),
      .ofNat 8 (dp.toNat % 256), 0x00#8, 0x00#8, 0x00#8, 0x00#8, 0x00#8, 0x00#8, 0x00#8, 0x00#8, 0x50#8, 0x02#8, 0x04#8,
      0x00#8, .ofNat 8 (c.toNat / 256), .ofNat 8 (c.toNat % 256), 0x00#8, 0x00#8] := by
  simp only [← hiByte_eq, ← loByte_eq]
  rfl

/-- The layout of R136, for every value in the checksum field. -/
theorem storeChecksum_udpZeroed (sp dp c : Half) :
    storeChecksum 6 c (udpZeroed sp dp) = [.ofNat 8 (sp.toNat / 256), .ofNat 8 (sp.toNat % 256), .ofNat 8 (dp.toNat / 256),
      .ofNat 8 (dp.toNat % 256), 0x00#8, 0x08#8, .ofNat 8 (c.toNat / 256), .ofNat 8 (c.toNat % 256)] := by
  simp only [← hiByte_eq, ← loByte_eq]
  rfl

/-- A header that stores in the field at `o` the checksum of its pseudo-header and of itself with that field zero is the layout
`h` at that checksum, and sums to 0x0000 behind the pseudo-header (R108, R134, R137). -/
theorem PseudoHeader.checksummed_layout (ph : PseudoHeader) {o : Nat} {zeroed header : List Byte} {h : Half → List Byte}
    (ho : o % 2 = 0) (hlen : o + 1 < zeroed.length) (hlayout : ∀ c, storeChecksum o c zeroed = h c)
    (hheader : ∃ c, csum (ph.bytes ++ storeChecksum o 0#16 zeroed) = some c ∧ header = storeChecksum o c zeroed) :
    ∃ c, csum (ph.bytes ++ h 0#16) = some c ∧ header = h c ∧ csum (ph.bytes ++ header) = some 0x0000#16 := by
  obtain ⟨c, hc, rfl⟩ := hheader
  exact ⟨c, hlayout 0#16 ▸ hc, hlayout c, csum_storeChecksum ph.length_even ho hlen hc⟩

/-- Settles O32: with the value `c` in the checksum field each header is the list `h c` of its layout. -/
theorem transportHeaderBytes : Obligations.TransportHeaderBytes := by
  refine ⟨fun ph sp dp h hh => ?tcp, fun ph sp dp h hh => ?udp⟩
  case tcp =>
    exact ph.checksummed_layout rfl (by simp) (fun c => (storeChecksum_tcpZeroed sp dp c).trans (hh c).symm)
      (tcpHeader_eq ph sp dp)
  case udp =>
    exact ph.checksummed_layout rfl (by simp) (fun c => (storeChecksum_udpZeroed sp dp c).trans (hh c).symm)
      (udpHeader_eq ph sp dp)

-- BTCP and BUDP (R135, R138).

/-- The pseudo-header that a family selects, in the terms of the claims (R130). -/
theorem pseudo_eq {s : State} {ph : IpVer → Proto → PseudoHeader}
    (hph : ∀ p, ph .v4 p = pseudo4 (firstFour s.srcAddr) (firstFour s.dstAddr) p ∧ ph .v6 p = pseudo6 s.srcAddr s.dstAddr p)
    (v : IpVer) (p : Proto) : ph v p = pseudo v s.srcAddr s.dstAddr p := by
  obtain ⟨h4, h6⟩ := hph p
  cases v with
  | v4 => exact h4
  | v6 => exact h6

/-- Settles O35: tags that agree build the header of their family, 20 or 8 bytes, and any others have the cause ERR_AF. -/
theorem btcpBudpBuildTheHeader : Obligations.BtcpBudpBuildTheHeader := by
  intro s ph hph
  refine ⟨decode_encode (i := .btcp) rfl, decode_encode (i := .budp) rfl, fun v hv => ?btcp, fun v hv => ?budp,
    fun hno => ?raises⟩
  case btcp =>
    rw [pseudo_eq hph]
    exact (Builds.btcp v ((family_eq_some_iff s v).2 hv)).exec_next (length_transportHeader v .tcp s)
  case budp =>
    rw [pseudo_eq hph]
    exact (Builds.budp v ((family_eq_some_iff s v).2 hv)).exec_next (length_transportHeader v .udp s)
  case raises =>
    have hdisagree : ¬(familyIs s .v4 ∨ familyIs s .v6) := not_or.2 ⟨hno .v4, hno .v6⟩
    exact ⟨exec_of_errorCause (i := .btcp) (if_neg hdisagree) (by decide),
      exec_of_errorCause (i := .budp) (if_neg hdisagree) (by decide)⟩

end Sys2Proof.Machine
end

section
/-! PROOFS (44_packet_builder.md R145 to R147). The packet builder: the four layouts of BUILD, and BUILD as the IP header command
followed by the transport header command. -/

namespace Sys2Proof.Machine

open Sys2Proof.Safety

/-- The lengths of the table of R147. -/
theorem length_packet (v : IpVer) (p : Proto) (s : State) :
    (packet v p s).length = match v with
      | .v4 => if p = .tcp then 40 else 28
      | .v6 => if p = .tcp then 60 else 48 := by
  rw [packet, List.length_append, length_ipHeader, length_transportHeader]
  cases v <;> cases p <;> rfl

/-- BUILD raises ERR_AF if no family is that of both tags (R146). -/
theorem errorCause_build_of_no_family {s : State} (hno : ∀ v, ¬familyIs s v) (p : Proto) : errorCause s (.build p) = 4 := by
  refine if_neg fun haf => ?_
  rcases (loaded_and_equal_iff _ _).1 haf with h4 | h6
  · exact hno .v4 h4
  · exact hno .v6 h6

/-- Settles O36: tags that agree build the packet of their family, and any others have the cause ERR_AF. -/
theorem buildLaysOutThePacket : Obligations.BuildLaysOutThePacket := by
  rintro p s _ _ _ _ pkt n rfl rfl rfl rfl hpkt4 hpkt6 hn4 hn6
  have hpkt (v : IpVer) : pkt v = packet v p s := by
    cases v with
    | v4 => rw [hpkt4]; cases p <;> rfl
    | v6 => rw [hpkt6]; cases p <;> rfl
  have hlen (v : IpVer) : (packet v p s).length = n v := by
    cases v with
    | v4 => exact (length_packet .v4 p s).trans hn4.symm
    | v6 => exact (length_packet .v6 p s).trans hn6.symm
  refine ⟨decode_encode (i := .build p) rfl, fun v hv => ?builds, fun hno => ?raises⟩
  case builds =>
    rw [hpkt]
    exact ⟨hlen v, (Builds.build v p ((family_eq_some_iff s v).2 hv)).exec_next (hlen v)⟩
  case raises => exact exec_of_errorCause (errorCause_build_of_no_family hno p) (by decide)

/-- A build completes with TX_LEN the number of its bytes, and they are what TXBUF holds below TX_LEN (R18). -/
theorem Builds.exec_bytes {s : State} {i : Instr} {bytes : List Byte} (h : Builds s i bytes) :
    ∃ t, exec i s = .next t ∧ t.txLen.toNat = bytes.length ∧ ∀ a, a < bytes.length → t.readByte .tx a = bytes.getD a 0#8 := by
  refine ⟨_, h.exec_eq_emit, h.txLen_toNat, fun a ha => ?_⟩
  rw [State.readByte_answer, State.readByte_setTx, if_pos ha]

/-- A build of two byte lists in a row writes the one, and behind it the other, that two further builds write at 0. -/
theorem Builds.exec_append {s : State} {i j k : Instr} {front back : List Byte} (hi : Builds s i front) (hj : Builds s j back)
    (hk : Builds s k (front ++ back)) : ∃ t1 t2 t3, exec i s = .next t1 ∧ exec j s = .next t2 ∧ exec k s = .next t3 ∧
      t3.txLen.toNat = t1.txLen.toNat + t2.txLen.toNat ∧
      (∀ a, a < t1.txLen.toNat → t3.readByte .tx a = t1.readByte .tx a) ∧
      (∀ a, a < t2.txLen.toNat → t3.readByte .tx (t1.txLen.toNat + a) = t2.readByte .tx a) := by
  obtain ⟨t1, hexec1, hlen1, hread1⟩ := hi.exec_bytes
  obtain ⟨t2, hexec2, hlen2, hread2⟩ := hj.exec_bytes
  obtain ⟨t3, hexec3, hlen3, hread3⟩ := hk.exec_bytes
  rw [List.length_append] at hlen3 hread3
  refine ⟨t1, t2, t3, hexec1, hexec2, hexec3, by rw [hlen1, hlen2, hlen3], fun a ha => ?front, fun a ha => ?back⟩
  case front =>
    rw [hlen1] at ha
    rw [hread1 a ha, hread3 a (Nat.lt_add_right _ ha), List.getD_append _ _ _ _ ha]
  case back =>
    rw [hlen2] at ha
    rw [hlen1, hread2 a ha, hread3 _ (Nat.add_lt_add_left ha _), List.getD_append_right _ _ _ _ (Nat.le_add_right _ _),
      Nat.add_sub_cancel_left]

/-- Settles O37: the packet is the IP header followed by the transport header (R145), and under tags of one family all three
commands build. -/
theorem buildIsIpHeaderThenTransportHeader : Obligations.BuildIsIpHeaderThenTransportHeader := by
  intro p v s hv
  have hfamily := (family_eq_some_iff s v).2 hv
  refine Builds.exec_append (front := ipHeader v s.srcAddr s.dstAddr p) (back := transportHeader v p s) ?ip ?transport
    (.build v p hfamily)
  case ip =>
    cases v with
    | v4 => exact .bip4 p hv
    | v6 => exact .bip6 p hv
  case transport =>
    cases p with
    | tcp => exact .btcp v hfamily
    | udp => exact .budp v hfamily

end Sys2Proof.Machine
end

section
/-! PROOFS (45_parser_classifier.md R155 to R167, R170). The parser: where each header is found, what is read of it, and the seven
registers PARSE writes. -/

namespace Sys2Proof.Machine

open Sys2Proof.Safety

-- Where the header is (R159, R160, R163).

/-- A `need` in front of one that asks for at least as much changes nothing. -/
theorem need_need {L m n : Nat} (h : m ≤ n) (k : Parsed) : need L m (need L n k) = need L n k := by
  rcases need_cases L m (need L n k) with ⟨hlt, htrunc⟩ | ⟨-, hgo⟩
  · rw [htrunc, need_of_lt (hlt.trans_le h)]
  · exact hgo

/-- The offset of the TCP header on channel TCP4, with the test of R159 on numbers. -/
theorem tcp4Offset_eq (rx : Memory) (sp : Half) :
    tcp4Offset rx sp = if half rx 2 = sp.toNat then 0 else (rx.read 0).toNat % 16 * 4 := by
  rw [← rx16_toNat]
  simp only [BitVec.toNat_inj]
  rfl

/-- On a TCP channel the parse reads the TCP fields at the offset R159 or R160 gives: they ask for more bytes than the test of
R159 does. -/
theorem parse_eq_tcpFields {ch : Channel} {rx : Memory} {sp : Half} {off : Nat}
    (h : (ch = .tcp4 ∧ off = if half rx 2 = sp.toNat then 0 else (rx.read 0).toNat % 16 * 4) ∨ (ch = .tcp6 ∧ off = 0))
    (L : Nat) (iphdr : Bool) : parse ch rx L sp iphdr = tcpFields rx L off := by
  rcases h with ⟨rfl, hoff⟩ | ⟨rfl, rfl⟩
  · rw [← tcp4Offset_eq] at hoff
    rw [hoff]
    exact need_need (by omega) _
  · rfl

/-- The ICMPv4 parse begins behind the outer header if CTRL says there is one: the message asks for more bytes than reading that
header's length does. -/
theorem parse_icmp4_eq (rx : Memory) (L : Nat) (sp : Half) (iphdr : Bool) :
    parse .icmp4 rx L sp iphdr = parseIcmp4At rx L (if iphdr = true then (rx.read 0).toNat % 16 * 4 else 0) := by
  cases iphdr with
  | true => exact need_need (by omega) _
  | false => rfl

-- What is read of it (R161, R163, R164).

section
variable {L n : Nat} {p : Prop} [Decidable p] {k k' : Parsed}

/-- With the bytes there and the test met the parse ends. -/
theorem need_ite_pos (h : n ≤ L) (hp : p) : need L n (if p then k else k') = k := (need_of_le h _).trans (if_pos hp)

/-- With the bytes there and the test not met the parse goes deeper. -/
theorem need_ite_neg (h : n ≤ L) (hp : ¬p) : need L n (if p then k else k') = k' := (need_of_le h _).trans (if_neg hp)

end

/-- Settles O39: the TCP fields are truncated or read at the offset of the header. -/
theorem tcpHeaderIsLocatedAndRead : Obligations.TcpHeaderIsLocatedAndRead := by
  intro ch rx L sp iphdr off hoff
  rw [parse_eq_tcpFields hoff]
  exact ⟨fun h => need_of_lt h _, fun h => ⟨_, _, _, need_of_le h _, rx16_toNat rx off, rx16_toNat rx (off + 2), rfl⟩⟩

/-- Settles O40: each `need` truncates or goes on, and each test ends the parse or goes deeper. -/
theorem icmp4ErrorIsParsed : Obligations.Icmp4ErrorIsParsed := by
  rintro rx L sp iphdr base _ _ hbase rfl rfl
  rw [parse_icmp4_eq, ← hbase, parseIcmp4At]
  refine ⟨fun h => need_of_lt h _, need_ite_pos, fun h htype hcode => ?_⟩
  rw [need_ite_neg h (not_or.2 ⟨not_not.2 htype, not_not.2 hcode⟩)]
  refine ⟨fun h => need_of_lt h _, need_ite_pos, fun h hudp => ?_⟩
  rw [need_ite_neg h (not_not.2 hudp)]
  exact ⟨fun h => need_of_lt h _, fun h => ⟨_, _, need_of_le h _, rx16_toNat rx _, rx16_toNat rx _⟩⟩

/-- Settles O41: as for ICMPv4, with the embedded header's fixed offsets. -/
theorem icmp6ErrorIsParsed : Obligations.Icmp6ErrorIsParsed := by
  intro rx L sp iphdr
  rw [parse, parseIcmp6]
  refine ⟨fun h => need_of_lt h _, need_ite_pos, fun h htype hcode => ?_⟩
  rw [need_ite_neg h (not_or.2 ⟨not_not.2 htype, not_not.2 hcode⟩)]
  refine ⟨fun h => need_of_lt h _, need_ite_pos, fun h hudp => ?_⟩
  rw [need_ite_neg h (not_not.2 hudp)]
  exact ⟨fun h => need_of_lt h _, fun h => ⟨_, _, need_of_le h _, rx16_toNat rx 48, rx16_toNat rx 50⟩⟩

-- The parse result registers (R20, R167).

/-- Two fields side by side are one number. -/
theorem toNat_append_add {m n : Nat} (x : BitVec m) (y : BitVec n) : (x ++ y).toNat = x.toNat * 2 ^ n + y.toNat := by
  rw [BitVec.toNat_append, ← Nat.shiftLeft_add_eq_or_of_lt y.isLt, Nat.shiftLeft_eq]

/-- Two ports as one register of R20. -/
theorem ports_toNat (sport dport : Half) : (sport ++ dport : BitVec 32).toNat = sport.toNat * 65536 + dport.toNat :=
  toNat_append_add sport dport

/-- `PR_ICMP` as a number. -/
theorem icmp_toNat (type code : Byte) : (type ++ code : BitVec 16).toNat = type.toNat * 256 + code.toNat :=
  toNat_append_add type code

/-- `PR_KIND` as a number. -/
theorem prKindWord_toNat {depth : Nat} (hd : depth ≤ 2) (ch : Channel) (kind : BitVec 3) :
    (prKindWord depth ch kind).toNat = kind.toNat + ch.code * 16 + depth * 256 := by
  have hcode := Channel.code_lt ch
  simp only [prKindWord, toNat_append_add, BitVec.toNat_ofNat]
  omega

/-- An offset that a parse answers fits PR_OFF. -/
theorem prOff_toNat {off : Nat} (h : off ≤ 60) : (BitVec.ofNat 6 off).toNat = off := by
  rw [BitVec.toNat_ofNat]
  omega

/-- The parse of a state, in the terms of the claims (R170). -/
theorem State.parsed_eq (s : State) (ch : Channel) :
    parse ch s.rxbuf s.rxLen.toNat s.srcPort (s.ctrl.getLsbD 1) = s.parsed ch := rfl

theorem State.parsed_shape (s : State) (ch : Channel) : (s.parsed ch).shape := parse_shape ..

/-- PARSE writes the registers of the parse and answers the new PR_KIND (R170). -/
theorem exec_parse (ch : Channel) (s : State) : exec (.parse ch) s =
    .next { s with pr := parseRegs ch (s.parsed ch), resp := okResp (parseRegs ch (s.parsed ch)).kind.toNat } := by
  rw [okResp, BitVec.ofNat_toNat]
  rfl

/-- Settles O43: PARSE writes the registers of the parse result, whose offset and depth fit their fields. -/
theorem parseWritesTheResultRegisters : Obligations.ParseWritesTheResultRegisters := by
  intro ch s
  refine ⟨decode_encode (i := .parse ch) rfl, _, exec_parse ch s, rfl, ?_⟩
  have hshape := s.parsed_shape ch
  rw [State.parsed_eq]
  generalize s.parsed ch = r at hshape
  cases r with
  | trunc => simp [parseRegs, prKindWord_toNat]
  | tcp off sport dport flags => simp [parseRegs, prKindWord_toNat, prOff_toNat hshape, ports_toNat]
  | icmp ver base type code depth eproto esport edport =>
    obtain ⟨hbase, hdepth⟩ := hshape
    have hkind := prKindWord_toNat (depth := depth) (by omega) ch
    cases ver <;> simp [parseRegs, hkind, icmpKind, prOff_toNat hbase, icmp_toNat, ports_toNat]

end Sys2Proof.Machine
end

section
/-! PROOFS (45_parser_classifier.md R168 to R174). The classifier: the candidate of a datagram, and what CLASSIFY does without one
and with one. -/

namespace Sys2Proof.Machine

open Sys2Proof.Safety

-- The candidate (R168).

/-- The candidate of a TCP header: the port it came from, if it went to the session source port with one of the three flags
bytes. -/
theorem candidate_tcp (off : Nat) (sport dport : Half) (flags : Byte) (sp : Half) :
    candidate (.tcp off sport dport flags) sp =
      if dport = sp ∧ flags = 0x12#8 then some ⟨sport, .tcp, .opened⟩
      else if dport = sp ∧ (flags = 0x04#8 ∨ flags = 0x14#8) then some ⟨sport, .tcp, .closed⟩ else none := by
  by_cases hport : dport = sp <;> simp [candidate, hport]

/-- Settles O44: by the parse result, and only an ICMP result of depth 2 names a port. -/
theorem candidateOfAParseResult : Obligations.CandidateOfAParseResult := by
  refine ⟨candidate_tcp, fun ver base type code es ed sp => ?_, ?_, fun sp => rfl, fun r sp c hc => ?_⟩
  · rw [candidate, if_pos ⟨rfl, rfl⟩]
  · intro ver base type code depth ep es ed sp hdepth
    rw [candidate, if_neg fun h => by omega]
  · rcases candidate_verdict hc with hv | ⟨hv, -⟩
    · exact .inr hv
    · exact .inl hv

-- What CLASSIFY answers, and the entries it leaves (R169, R173).

/-- The last part of CLASSIFY, in the terms of the claims. -/
theorem answerRes_eq (r : BitVec 24) (s : State) :
    answerRes r s = .next { s.setRes r with resp := okResp (s.setRes r).res.toNat } := by
  rw [okResp, BitVec.ofNat_toNat]
  rfl

/-- CLASSIFY completes in one of its four ways, with the new `RES` as the response. -/
theorem exec_classify (ch : Channel) (s : State) :
    ∃ u, Completes s (.classify ch) u ∧ exec (.classify ch) s = .next { u with resp := okResp u.res.toNat } := by
  show ∃ u, _ ∧ classifyParsed (s.parsed ch) (s.setPr (parseRegs ch (s.parsed ch))) = _
  rcases classifyParsed_cases (s.parsed ch) (s.setPr (parseRegs ch (s.parsed ch))) with
    ⟨htrunc, h⟩ | ⟨hne, hnone, h⟩ | ⟨c, -, hc, hv, h⟩ | ⟨c, o, -, hc, hv, rfl, -, h⟩
  · exact ⟨_, .classifyTruncated ch htrunc, h.trans (answerRes_eq _ _)⟩
  · exact ⟨_, .classifyIgnored ch hne hnone, h.trans (answerRes_eq _ _)⟩
  · exact ⟨_, .classifyUpdates ch c hc hv, h.trans (answerRes_eq _ _)⟩
  · exact ⟨_, .classifyKeeps ch c hc hv, h.trans (answerRes_eq _ _)⟩

section
variable {s u : State} {ch : Channel} {c : Candidate}

/-- Without a candidate CLASSIFY writes the parse result registers and RES, with the outcome of the parse. -/
theorem Completes.classify_of_none (h : Completes s (.classify ch) u) (hc : candidate (s.parsed ch) s.srcPort = none) :
    u = (s.setPr (parseRegs ch (s.parsed ch))).setRes (resNone (if s.parsed ch = .trunc then .parseErr else .ignored)) := by
  cases h with
  | builds hb => cases hb
  | classifyTruncated _ htrunc => rw [if_pos htrunc]
  | classifyIgnored _ hne => rw [if_neg hne]
  | classifyUpdates _ _ hsome | classifyKeeps _ _ hsome => cases hc.symm.trans hsome

/-- With a candidate CLASSIFY raises the event if the candidate's entry is PENDING, and only answers the outcome if it is not. -/
theorem Completes.classify_of_some (h : Completes s (.classify ch) u) (hc : candidate (s.parsed ch) s.srcPort = some c) :
    (s.verdict c.proto c.port = .pending ∧
      u = ((s.setPr (parseRegs ch (s.parsed ch))).setEvent c (resWord .updated c)).setRes (resWord .updated c)) ∨
    (s.verdict c.proto c.port ≠ .pending ∧
      u = (s.setPr (parseRegs ch (s.parsed ch))).setRes (resWord (correlateOutcome (s.verdict c.proto c.port)) c)) := by
  cases h with
  | builds hb => cases hb
  | classifyTruncated _ htrunc =>
    rw [htrunc] at hc
    cases hc
  | classifyIgnored _ _ hnone => cases hnone.symm.trans hc
  | classifyUpdates _ c' hc' hv =>
    obtain rfl : c' = c := Option.some.inj (hc'.symm.trans hc)
    exact .inl ⟨hv, rfl⟩
  | classifyKeeps _ c' hc' hv =>
    obtain rfl : c' = c := Option.some.inj (hc'.symm.trans hc)
    exact .inr ⟨hv, rfl⟩

/-- Without a candidate CLASSIFY leaves every entry. -/
theorem Completes.classify_entry_of_none (h : Completes s (.classify ch) u)
    (hc : candidate (s.parsed ch) s.srcPort = none) (q : Proto) (m : Half) : u.verdict q m = s.verdict q m := by
  rw [h.classify_of_none hc]
  rfl

/-- With a candidate CLASSIFY writes the candidate's entry if it is PENDING, and leaves every other. -/
theorem Completes.classify_entry_of_some (h : Completes s (.classify ch) u)
    (hc : candidate (s.parsed ch) s.srcPort = some c) (q : Proto) (m : Half) :
    u.verdict q m = if q = c.proto ∧ m = c.port ∧ s.verdict q m = .pending then c.verdict else s.verdict q m := by
  rcases h.classify_of_some hc with ⟨hv, rfl⟩ | ⟨hv, rfl⟩
  · rw [State.verdict_setRes, State.verdict_setEvent, State.verdict_setPr]
    refine if_congr ⟨?_, fun hin => ⟨hin.1.symm, hin.2.1.symm⟩⟩ rfl rfl
    rintro ⟨rfl, rfl⟩
    exact ⟨rfl, rfl, hv⟩
  · refine (if_neg ?_).symm
    rintro ⟨rfl, rfl, hpending⟩
    exact hv hpending

end

-- CLASSIFY as an equation for the next state (R172, R173).

/-- Settles O45: CLASSIFY writes PARSE's registers and the number of R172. -/
theorem classifyWithoutCandidate : Obligations.ClassifyWithoutCandidate := by
  rintro ch s _ n rfl hnone hn
  rw [State.parsed_eq] at hnone hn
  obtain ⟨u, hu, hexec⟩ := exec_classify ch s
  obtain rfl := hu.classify_of_none hnone
  refine ⟨decode_encode (i := .classify ch) rfl, _, _, hexec, exec_parse ch s, ?_⟩
  have hres : (resNone (if s.parsed ch = .trunc then .parseErr else .ignored)).toNat = n := by
    rw [hn]
    split <;> rfl
  rw [← hres, BitVec.ofNat_toNat, BitVec.setWidth_eq]
  rfl

/-- The outcome is OC_UPDATED for a PENDING entry alone (R169). -/
theorem correlateOutcome_code_eq_one_iff (v : Verdict) : (correlateOutcome v).code.toNat = 1 ↔ v = .pending := by
  cases v <;> decide

/-- Settles O46: RES holds the number of R172, whose outcome is 1 exactly if the entry is PENDING. -/
theorem classifyWithCandidate : Obligations.ClassifyWithCandidate := by
  intro ch s c o n hc ho hn
  rw [State.parsed_eq] at hc
  obtain ⟨u, hu, hexec⟩ := exec_classify ch s
  refine ⟨_, _, hexec, exec_parse ch s, hu.classify_entry_of_some hc, ?_⟩
  have hcode : (correlateOutcome (s.verdict c.proto c.port)).code.toNat = o := by
    rw [ho]
    cases s.verdict c.proto c.port <;> rfl
  have hres : (resWord (correlateOutcome (s.verdict c.proto c.port)) c).toNat = n := by rw [resWord_toNat, hcode, hn]
  have hone : o = 1 ↔ s.verdict c.proto c.port = .pending := hcode ▸ correlateOutcome_code_eq_one_iff _
  simp only [← hres, BitVec.ofNat_toNat, BitVec.setWidth_eq, hone]
  rcases hu.classify_of_some hc with ⟨hv, rfl⟩ | ⟨hv, rfl⟩
  · rw [if_pos hv, if_pos hv, hv]
    rfl
  · rw [if_neg hv, if_neg hv]
    rfl

-- CLASSIFY again, and the answers of D00 (R174).

/-- CLASSIFY leaves all that the candidate of the next CLASSIFY is read from. -/
theorem Completes.classify_candidate {s u : State} {ch : Channel} (h : Completes s (.classify ch) u) :
    candidate (u.parsed ch) u.srcPort = candidate (s.parsed ch) s.srcPort := by
  cases h with
  | builds hb => cases hb
  | classifyTruncated | classifyIgnored | classifyUpdates | classifyKeeps => rfl

/-- CLASSIFY leaves an entry that is not PENDING. -/
theorem Completes.classify_keeps_resolved {s u : State} {ch : Channel} (h : Completes s (.classify ch) u) {q : Proto} {m : Half}
    (hv : s.verdict q m ≠ .pending) : u.verdict q m = s.verdict q m := by
  cases hc : candidate (s.parsed ch) s.srcPort with
  | none => exact h.classify_entry_of_none hc q m
  | some c => exact (h.classify_entry_of_some hc q m).trans (if_neg fun hin => hv hin.2.2)

/-- After CLASSIFY the candidate's entry is not PENDING. -/
theorem Completes.classify_resolves {s u : State} {ch : Channel} {c : Candidate} (h : Completes s (.classify ch) u)
    (hc : candidate (s.parsed ch) s.srcPort = some c) : u.verdict c.proto c.port ≠ .pending := by
  by_cases hv : s.verdict c.proto c.port = .pending
  · rw [h.classify_entry_of_some hc, if_pos ⟨rfl, rfl, hv⟩]
    rcases candidate_verdict hc with hclosed | ⟨hopened, -⟩
    · simp [hclosed]
    · simp [hopened]
  · rw [h.classify_keeps_resolved hv]
    exact hv

/-- Settles O47: the second CLASSIFY has the candidate of the first, whose entry is no longer PENDING. -/
theorem classifyIsIdempotentOnTheTable : Obligations.ClassifyIsIdempotentOnTheTable := by
  intro ch s
  obtain ⟨u, hu, hexec⟩ := exec_classify ch s
  obtain ⟨u', hu', hexec'⟩ := exec_classify ch { u with resp := okResp u.res.toNat }
  refine ⟨_, _, hexec, hexec', fun q m => ?_, fun q m hv => hu.classify_keeps_resolved hv⟩
  have hsame : candidate (State.parsed { u with resp := okResp u.res.toNat } ch) u.srcPort =
    candidate (s.parsed ch) s.srcPort := hu.classify_candidate
  cases hc : candidate (s.parsed ch) s.srcPort with
  | none => exact hu'.classify_entry_of_none (hsame.trans hc) q m
  | some c =>
    refine (hu'.classify_entry_of_some (hsame.trans hc) q m).trans (if_neg ?_)
    rintro ⟨rfl, rfl, hv⟩
    exact hu.classify_resolves hc hv

/-- CLASSIFY of a datagram whose candidate is PENDING gives the entry the candidate's verdict and sets EVT_PEND. -/
theorem exec_classify_resolves {ch : Channel} {s : State} {c : Candidate} (hc : candidate (s.parsed ch) s.srcPort = some c)
    (hv : s.verdict c.proto c.port = .pending) :
    ∃ t, exec (.classify ch) s = .next t ∧ t.verdict c.proto c.port = c.verdict ∧ t.status.evtPend = true := by
  obtain ⟨t, _, hexec, -, hentry, ht⟩ := classifyWithCandidate ch s c _ _ hc rfl rfl
  refine ⟨t, hexec, (hentry _ _).trans (if_pos ⟨rfl, rfl, hv⟩), ?_⟩
  rw [ht]
  simp [hv]

/-- Settles O48: such a datagram parses to a header (R161) or to an embedded UDP probe (R163) whose candidate is the port. -/
theorem answersResolvePendingPorts : Obligations.AnswersResolvePendingPorts := by
  refine ⟨?tcp, ?udp⟩
  case tcp =>
    intro ch s port v hch hlen hsport hdport hv hflags
    have hoff : (ch = .tcp4 ∧ 0 = if half s.rxbuf 2 = s.srcPort.toNat then 0 else (s.rxbuf.read 0).toNat % 16 * 4) ∨
        (ch = .tcp6 ∧ 0 = 0) := by
      rw [if_pos hdport]
      exact hch.imp (⟨·, rfl⟩) (⟨·, rfl⟩)
    obtain ⟨sport, dport, flags, hparse, hs, hd, rfl⟩ :=
      (tcpHeaderIsLocatedAndRead ch s.rxbuf s.rxLen.toNat s.srcPort (icmp4IpHdr s.ctrl) 0 hoff).2 hlen
    obtain rfl : sport = port := BitVec.eq_of_toNat_eq (hs.trans hsport)
    obtain rfl : dport = s.srcPort := BitVec.eq_of_toNat_eq (hd.trans hdport)
    have hc : candidate (s.parsed ch) s.srcPort = some ⟨sport, .tcp, v⟩ := by
      rw [State.parsed, hparse, candidate_tcp, Nat.zero_add]
      rcases hflags with ⟨hf, rfl⟩ | ⟨hf | hf, rfl⟩ <;> rw [hf] <;> simp
    exact exec_classify_resolves (c := ⟨sport, .tcp, v⟩) hc hv
  case udp =>
    rintro s port _ hctrl rfl hlen hports htype hcode hproto hport hv
    obtain ⟨es, ed, hparse, -, hd⟩ :=
      (((icmp4ErrorIsParsed s.rxbuf s.rxLen.toNat s.srcPort false 0 8 _ rfl rfl rfl).2.2 (by omega) htype hcode).2.2 hlen
        hproto).2 hports
    obtain rfl : ed = port := BitVec.eq_of_toNat_eq (hd.trans hport)
    have hc : candidate (s.parsed .icmp4) s.srcPort = some ⟨ed, .udp, .closed⟩ := by
      rw [State.parsed, icmp4IpHdr, hctrl, hparse]
      rfl
    exact exec_classify_resolves (c := ⟨ed, .udp, .closed⟩) hc hv

end Sys2Proof.Machine
end

section
/-! PROOFS (46_verdict_table.md R190 to R195). The verdict table: what ARM, SETV, GETV and CLRV answer, and what every command does
to every entry. -/

namespace Sys2Proof.Machine

open Sys2Proof.Safety

-- The one move ARM and SETV make: an entry is written only if it holds the verdict the move starts from.

/-- The state with the entry `(p, n)` at `new`, if it was at `old`. -/
def State.moveEntry (p : Proto) (n : Half) (old new : Verdict) (s : State) : State :=
  if s.verdict p n = old then s.setVerdict p n new else s

/-- An entry read after a move of one entry. -/
theorem State.verdict_moveEntry (s : State) (p q : Proto) (n m : Half) (old new : Verdict) :
    (s.moveEntry p n old new).verdict q m = if p = q ∧ n = m ∧ s.verdict q m = old then new else s.verdict q m := by
  unfold State.moveEntry
  split
  case isTrue hold =>
    rw [State.verdict_setVerdict]
    refine if_congr ⟨?_, fun hin => ⟨hin.1, hin.2.1⟩⟩ rfl rfl
    rintro ⟨rfl, rfl⟩
    exact ⟨rfl, rfl, hold⟩
  case isFalse hold =>
    refine (if_neg ?_).symm
    rintro ⟨rfl, rfl, h⟩
    exact hold h

/-- The claims name the entry on either side of the equations. -/
theorem ite_entry_comm {p q : Proto} {n m : Half} {P : Prop} [Decidable P] {new kept : Verdict} :
    (if p = q ∧ n = m ∧ P then new else kept) = if q = p ∧ m = n ∧ P then new else kept :=
  if_congr (and_congr eq_comm (and_congr_left' eq_comm)) rfl rfl

/-- A move of one entry writes the table alone. -/
theorem State.moveEntry_frame (s : State) (p : Proto) (n : Half) (old new : Verdict) :
    s.moveEntry p n old new = { s with vt := (s.moveEntry p n old new).vt } := by
  unfold State.moveEntry
  split <;> rfl

-- The commands of the table, each as an equation.

/-- The answer of ARM, SETV and GETV, in the terms of the claims. -/
theorem respondVerdict_eq (p : Proto) (n : Half) (s : State) :
    respondVerdict p n s = .next { s with resp := okResp (verdictCode (s.verdict p n)) } := by
  rw [respondVerdict, Verdict.code_setWidth]
  rfl

theorem exec_arm (p : Proto) (n : Half) (s : State) :
    exec (.arm p n) s = respondVerdict p n (s.moveEntry p n .absent .pending) := rfl

theorem exec_setv_of_some {v : BitVec 3} {x : Verdict} (hx : Verdict.ofOperand v = some x) (p : Proto) (n : Half) (s : State) :
    exec (.setv p n v) s = respondVerdict p n (s.moveEntry p n .pending x) := by
  show execSetv p n v s = _
  rw [execSetv, hx]
  rfl

theorem exec_setv_of_none {v : BitVec 3} (hx : Verdict.ofOperand v = none) (p : Proto) (n : Half) (s : State) :
    exec (.setv p n v) s = raise .operand (encode (.setv p n v)) s := by
  show execSetv p n v s = _
  rw [execSetv, hx]

/-- A move of one entry with the answer that follows it, in the terms of the claims about ARM and SETV. -/
theorem respondVerdict_moveEntry (p : Proto) (n : Half) (old new : Verdict) (s : State) :
    ∃ t, respondVerdict p n (s.moveEntry p n old new) = .next t ∧
      (∀ q m, t.verdict q m = if q = p ∧ m = n ∧ s.verdict q m = old then new else s.verdict q m) ∧
      t = { s with vt := t.vt, resp := okResp (verdictCode (t.verdict p n)) } := by
  refine ⟨_, respondVerdict_eq p n _, fun q m => ?_, ?_⟩
  · exact (s.verdict_moveEntry p q n m old new).trans ite_entry_comm
  · rw [State.moveEntry_frame]
    rfl

-- What each command does to every entry (R195).

/-- A command whose row of the write matrix does not name VT leaves every entry. -/
theorem exec_keeps_verdict {i : Instr} {s t : State} (h : exec i s = .next t) (hi : Component.vt ∉ writtenBy i) (p : Proto)
    (n : Half) : t.verdict p n = s.verdict p n := by
  rcases exec_cases h with ⟨u, d, hu, rfl⟩ | ⟨e, rfl⟩
  · exact hu.sameOutside .vt hi p n
  · rfl

theorem verdict_of_respondVerdict {p : Proto} {n : Half} {u t : State} (h : respondVerdict p n u = .next t) (q : Proto)
    (m : Half) : t.verdict q m = u.verdict q m := by
  rw [respondVerdict_next.1 h, State.verdict_answer]

section
variable {s t : State} {q : Proto} {m : Half}

theorem exec_arm_entry (h : exec (.arm q m) s = .next t) (p : Proto) (n : Half) :
    t.verdict p n = if q = p ∧ m = n ∧ s.verdict p n = .absent then .pending else s.verdict p n :=
  (verdict_of_respondVerdict (exec_arm q m s ▸ h) p n).trans (s.verdict_moveEntry ..)

/-- SETV with an operand that names no verdict moves nothing. -/
theorem exec_setv_entry {v : BitVec 3} (h : exec (.setv q m v) s = .next t) (p : Proto) (n : Half) :
    t.verdict p n = if q = p ∧ m = n ∧ s.verdict p n = .pending then (Verdict.ofOperand v).getD (s.verdict p n)
      else s.verdict p n := by
  cases hx : Verdict.ofOperand v with
  | none =>
    rw [exec_setv_of_none hx] at h
    rw [raise_next.1 h, Option.getD_none, ite_self]
    rfl
  | some x =>
    rw [exec_setv_of_some hx] at h
    exact (verdict_of_respondVerdict h p n).trans (s.verdict_moveEntry ..)

/-- What a SETV operand makes of a PENDING entry, by its number (R63, R191). -/
theorem Verdict.ofOperand_getD (v : BitVec 3) (d : Verdict) :
    (Verdict.ofOperand v).getD d = match v.toNat with | 2 => .opened | 3 => .closed | 4 => .filtered | _ => d := by
  cases d <;> revert v <;> decide

/-- CLASSIFY leaves the entries as one of its four ways of completing does. -/
theorem exec_classify_completes {ch : Channel} (h : exec (.classify ch) s = .next t) :
    ∃ u, Completes s (.classify ch) u ∧ ∀ p n, t.verdict p n = u.verdict p n := by
  obtain ⟨u, hu, hexec⟩ := exec_classify ch s
  obtain rfl := Host.Outcome.next.inj (hexec.symm.trans h)
  exact ⟨u, hu, fun _ _ => rfl⟩

theorem exec_clrv_entry (h : exec .clrv s = .next t) (p : Proto) (n : Half) : t.verdict p n = .absent := by
  obtain rfl := respond_next.1 (show execClrv s = .next t from h)
  rfl

/-- An entry that is FILTERED after CLASSIFY was so before: no candidate is FILTERED (R168). -/
theorem exec_classify_filtered {ch : Channel} (h : exec (.classify ch) s = .next t) {p : Proto} {n : Half}
    (hf : t.verdict p n = .filtered) : s.verdict p n = .filtered := by
  obtain ⟨u, hu, hentry⟩ := exec_classify_completes h
  rw [hentry] at hf
  cases hc : candidate (s.parsed ch) s.srcPort with
  | none => rwa [hu.classify_entry_of_none hc] at hf
  | some c =>
    rw [hu.classify_entry_of_some hc] at hf
    split at hf
    · rcases candidate_verdict hc with hv | ⟨hv, -⟩ <;> cases hv.symm.trans hf
    · exact hf

/-- Only SETV makes an entry FILTERED. -/
theorem exec_filtered {i : Instr} (h : exec i s = .next t) {p : Proto} {n : Half} (hf : t.verdict p n = .filtered) :
    s.verdict p n = .filtered ∨ ∃ v, i = .setv p n v := by
  cases i with
  | arm q m =>
    rw [exec_arm_entry h] at hf
    split at hf
    · cases hf
    · exact .inl hf
  | setv q m v =>
    rw [exec_setv_entry h] at hf
    split at hf
    case isTrue hin =>
      obtain ⟨rfl, rfl, -⟩ := hin
      exact .inr ⟨v, rfl⟩
    case isFalse => exact .inl hf
  | classify ch => exact .inl (exec_classify_filtered h hf)
  | clrv => cases (exec_clrv_entry h p n).symm.trans hf
  | setaf r | setah r | stb r =>
    exact .inl ((exec_keeps_verdict h (by cases r <;> simp [writtenBy]) p n).symm.trans hf)
  | _ => exact .inl ((exec_keeps_verdict h (by simp [writtenBy]) p n).symm.trans hf)

end

/-- Settles O52: the commands that write the table one by one, the others by the write matrix. -/
theorem everyTransitionOfATableEntry : Obligations.EveryTransitionOfATableEntry := by
  refine ⟨fun i s t p n h => ?table, fun s t rest p n hin h => ?reset, fun i s t p n h hi => exec_forward h hi p n,
    fun i s t p n h hf => exec_filtered h hf⟩
  case reset =>
    obtain rfl := Host.Outcome.next.inj ((step_reset hin).symm.trans h)
    rfl
  case table =>
    cases i with
    | arm q m => exact exec_arm_entry h p n
    | setv q m v => exact (exec_setv_entry h p n).trans (if_congr Iff.rfl (Verdict.ofOperand_getD v _) rfl)
    | classify ch =>
      obtain ⟨u, hu, hentry⟩ := exec_classify_completes h
      simp only [hentry, State.parsed_eq]
      cases hc : candidate (s.parsed ch) s.srcPort with
      | none => exact hu.classify_entry_of_none hc p n
      | some c => exact (hu.classify_entry_of_some hc p n).trans ite_entry_comm
    | clrv => exact exec_clrv_entry h p n
    | setaf r | setah r | stb r => exact exec_keeps_verdict h (by cases r <;> simp [writtenBy]) p n
    | _ => exact exec_keeps_verdict h (by simp [writtenBy]) p n

-- The four commands of the table, as equations for the next state (R190 to R193).

/-- Settles O49: the move from ABSENT to PENDING. -/
theorem armMakesAbsentPending : Obligations.ArmMakesAbsentPending :=
  fun p port s => ⟨decode_encode (i := .arm p port) rfl, respondVerdict_moveEntry p port .absent .pending s⟩

/-- Settles O50: the move from PENDING to the verdict the operand names, or the error for an operand that names none. -/
theorem setvResolvesPending : Obligations.SetvResolvesPending := by
  rintro p port v s w rfl
  refine ⟨decode_encode (i := .setv p port v) rfl, fun x hx hterminal => ?_, fun hv => ?_⟩
  · rw [exec_setv_of_some (Verdict.ofOperand_eq hx hterminal)]
    exact respondVerdict_moveEntry p port .pending x s
  · exact exec_of_errorCause (i := .setv p port v) (if_pos hv) two_ne_zero

/-- Settles O51: GETV answers the entry, and the empty table reads ABSENT everywhere. -/
theorem getvReadsAndClrvClears : Obligations.GetvReadsAndClrvClears :=
  ⟨fun p port s => ⟨decode_encode (i := .getv p port) rfl, respondVerdict_eq p port s⟩,
    fun _ => ⟨decode_encode (i := .clrv) rfl, _, rfl, fun _ _ => rfl, rfl⟩⟩

end Sys2Proof.Machine
end

section
/-! PROOFS (60_exceptions.md R207). A presented word whose response is an error has raised that error: a word ends in one of the
two ways of `Ends`, and the response tells which. -/

namespace Sys2Proof.Machine

open Sys2Proof.Safety

/-- The response of a command that ended carries the code it ended with. -/
theorem Ends.code_eq {s t : State} {w : Word} {code : Nat} {d : Response} (h : Ends s w code (.next t))
    (hresp : t.resp = some d) : d.err.toNat = code := by
  obtain ⟨t', d', hnext, -, hresp', -, hcode⟩ := h.answered
  obtain rfl : t = t' := Host.Outcome.next.inj hnext
  obtain rfl : d = d' := Option.some.inj (hresp.symm.trans hresp')
  exact hcode

/-- Every word ends, one that decodes as its command does and any other by raising ERR_ILLEGAL; what it raises, it raises with
itself as the failing word (R65, R207). -/
theorem runWord_ends (w : Word) (s : State) : ∃ code, Ends s w code (runWord w s) := by
  cases hdec : decode w with
  | ok i =>
    have hw : encode i = w := encode_eq (encodeNat_of_decode hdec)
    rw [runWord_ok hdec]
    exact ⟨errorCause s i, hw ▸ exec_ends i s⟩
  | error e =>
    rw [runWord_error hdec]
    exact ⟨_, .raises .illegal⟩

/-- Settles O11: the word ends with the code of its response, and an end with an error code is that error raised. -/
theorem raiseWritesOnlyTheErrorRecord : Obligations.RaiseWritesOnlyTheErrorRecord := by
  intro s t w rest d hin h hresp herr
  obtain ⟨code, hends⟩ := runWord_ends w (s.setInput rest)
  rw [← step_command hin, h] at hends
  obtain rfl := hends.code_eq hresp
  have hcode : d.err.toNat ≠ 0 := fun hzero => herr (BitVec.eq_of_toNat_eq hzero)
  exact Host.Outcome.next.inj (hends.eq_raised hcode)

end Sys2Proof.Machine
end
